-- ==== Sys2Proof/Word.lean ====
section
/-! DEFINITION. The word types of the machine (00_scope.md R6, R11, R12) and nothing else. -/

namespace Sys2Proof

/-- A memory byte, a general register or a timer (00_scope.md R6). -/
abbrev Byte := BitVec 8

/-- An opcode, PC, I or a stack entry: 16 bits (00_scope.md R6). -/
abbrev Word := BitVec 16

/-- The 12-bit field `nnn` (30_encoding.md R71). -/
abbrev Addr12 := BitVec 12

/-- A register index; every 4-bit value names a register (30_encoding.md R72). -/
abbrev Reg := Fin 16

/-- A key index 0..15 (10_state.md R33). -/
abbrev Key := Fin 16

/-- Register 15 doubles as the flag register (10_state.md R22). -/
abbrev VF : Reg := 15

end Sys2Proof
end

