-- ==== Sys2Proof/Syntax.lean ====
section
/-! DEFINITION. The instructions: one constructor per row of opcode_table.json, named by its opcode pattern, which is
the instruction's name (30_encoding.md R90). -/

namespace Sys2Proof

/-- The 34 instructions (00_scope.md R2). Operands are the fields of 30_encoding.md R71; `n` is a count. -/
inductive Instr where
  | op00E0
  | op00EE
  | op1NNN (nnn : Addr12)
  | op2NNN (nnn : Addr12)
  | op3XNN (x : Reg) (nn : Byte)
  | op4XNN (x : Reg) (nn : Byte)
  | op5XY0 (x y : Reg)
  | op6XNN (x : Reg) (nn : Byte)
  | op7XNN (x : Reg) (nn : Byte)
  | op8XY0 (x y : Reg)
  | op8XY1 (x y : Reg)
  | op8XY2 (x y : Reg)
  | op8XY3 (x y : Reg)
  | op8XY4 (x y : Reg)
  | op8XY5 (x y : Reg)
  /-- `y` is encoded and ignored (30_encoding.md R82). -/
  | op8XY6 (x y : Reg)
  | op8XY7 (x y : Reg)
  /-- `y` is encoded and ignored (30_encoding.md R82). -/
  | op8XYE (x y : Reg)
  | op9XY0 (x y : Reg)
  | opANNN (nnn : Addr12)
  | opBNNN (nnn : Addr12)
  | opCXNN (x : Reg) (nn : Byte)
  /-- `n` is the row count 0..15; `Instr.wf` holds the bound. -/
  | opDXYN (x y : Reg) (n : Nat)
  | opEX9E (x : Reg)
  | opEXA1 (x : Reg)
  | opFX07 (x : Reg)
  | opFX0A (x : Reg)
  | opFX15 (x : Reg)
  | opFX18 (x : Reg)
  | opFX1E (x : Reg)
  | opFX29 (x : Reg)
  | opFX33 (x : Reg)
  | opFX55 (x : Reg)
  | opFX65 (x : Reg)
  deriving DecidableEq, Repr

end Sys2Proof
end

