-- ==== Sys2Proof/WellFormed.lean ====
section
/-! DEFINITION. Which terms of `Instr` an encoding can hold (30_encoding.md R72). -/

namespace Sys2Proof

/-- DXYN's row count has four bits: 0..15. Every other operand's type is exactly its field, and "every 4-bit value
names a register", so this is the one check (log entry 22). -/
def Instr.wf : Instr → Bool
  | .opDXYN _ _ n => decide (n ≤ 15)
  | _ => true

end Sys2Proof
end

