-- ==== Sys2Proof/Decode.lean ====
section
/-! DEFINITION. Decoding (30_encoding.md R70 to R85): the fields, the two-level decoder, the decoder over bytes that
rejects by name, the encoder, the opcode table's match and mask, and the assembler text of R90. -/

namespace Sys2Proof

/-! ## Fields of an opcode (R71) -/

/-- `h` = op[15:12], the family. -/
def fieldH (op : Word) : BitVec 4 := op.extractLsb' 12 4
/-- `x` = op[11:8] as a register index. -/
def fieldX (op : Word) : Reg := (op.extractLsb' 8 4).toFin
/-- `y` = op[7:4] as a register index. -/
def fieldY (op : Word) : Reg := (op.extractLsb' 4 4).toFin
/-- `n` = op[3:0]. -/
def fieldN (op : Word) : BitVec 4 := op.extractLsb' 0 4
/-- `nn` = op[7:0]. -/
def fieldNN (op : Word) : Byte := op.extractLsb' 0 8
/-- `nnn` = op[11:0]. -/
def fieldNNN (op : Word) : Addr12 := op.extractLsb' 0 12

/-! ## The decoder -/

/-- Family 0 matches all 16 bits (R77). -/
def decodeFamily0 (op : Word) : Option Instr :=
  match op with
  | 0x00E0#16 => some .op00E0
  | 0x00EE#16 => some .op00EE
  | _ => none

/-- Family 8 matches the low nibble (R78). -/
def decodeFamily8 (op : Word) : Option Instr :=
  match fieldN op with
  | 0x0#4 => some (.op8XY0 (fieldX op) (fieldY op))
  | 0x1#4 => some (.op8XY1 (fieldX op) (fieldY op))
  | 0x2#4 => some (.op8XY2 (fieldX op) (fieldY op))
  | 0x3#4 => some (.op8XY3 (fieldX op) (fieldY op))
  | 0x4#4 => some (.op8XY4 (fieldX op) (fieldY op))
  | 0x5#4 => some (.op8XY5 (fieldX op) (fieldY op))
  | 0x6#4 => some (.op8XY6 (fieldX op) (fieldY op))
  | 0x7#4 => some (.op8XY7 (fieldX op) (fieldY op))
  | 0xE#4 => some (.op8XYE (fieldX op) (fieldY op))
  | _ => none

/-- Family E matches the low byte (R79). -/
def decodeFamilyE (op : Word) : Option Instr :=
  match fieldNN op with
  | 0x9E#8 => some (.opEX9E (fieldX op))
  | 0xA1#8 => some (.opEXA1 (fieldX op))
  | _ => none

/-- Family F matches the low byte (R80). -/
def decodeFamilyF (op : Word) : Option Instr :=
  match fieldNN op with
  | 0x07#8 => some (.opFX07 (fieldX op))
  | 0x0A#8 => some (.opFX0A (fieldX op))
  | 0x15#8 => some (.opFX15 (fieldX op))
  | 0x18#8 => some (.opFX18 (fieldX op))
  | 0x1E#8 => some (.opFX1E (fieldX op))
  | 0x29#8 => some (.opFX29 (fieldX op))
  | 0x33#8 => some (.opFX33 (fieldX op))
  | 0x55#8 => some (.opFX55 (fieldX op))
  | 0x65#8 => some (.opFX65 (fieldX op))
  | _ => none

/-- `decode(op)` (R75, R76): first on `h`, then on the family's sub-field; `none` is a decode fault (R84). -/
def decode (op : Word) : Option Instr :=
  match fieldH op with
  | 0x0#4 => decodeFamily0 op
  | 0x1#4 => some (.op1NNN (fieldNNN op))
  | 0x2#4 => some (.op2NNN (fieldNNN op))
  | 0x3#4 => some (.op3XNN (fieldX op) (fieldNN op))
  | 0x4#4 => some (.op4XNN (fieldX op) (fieldNN op))
  | 0x5#4 => if fieldN op = 0x0#4 then some (.op5XY0 (fieldX op) (fieldY op)) else none
  | 0x6#4 => some (.op6XNN (fieldX op) (fieldNN op))
  | 0x7#4 => some (.op7XNN (fieldX op) (fieldNN op))
  | 0x8#4 => decodeFamily8 op
  | 0x9#4 => if fieldN op = 0x0#4 then some (.op9XY0 (fieldX op) (fieldY op)) else none
  | 0xA#4 => some (.opANNN (fieldNNN op))
  | 0xB#4 => some (.opBNNN (fieldNNN op))
  | 0xC#4 => some (.opCXNN (fieldX op) (fieldNN op))
  | 0xD#4 => some (.opDXYN (fieldX op) (fieldY op) (fieldN op).toNat)
  | 0xE#4 => decodeFamilyE op
  | _ => decodeFamilyF op

/-- Why a byte string holds no instruction. -/
inductive DecodeError where
  /-- Fewer than two bytes (R70: every instruction is two bytes). -/
  | truncated (available : Nat)
  /-- The word matches no pattern (R84). -/
  | unknownOpcode (op : Word)
  deriving DecidableEq, Repr

/-- Two bytes, the high byte first, as one opcode (20_memory.md R52). -/
def opcodeOf (hi lo : Byte) : Word := hi ++ lo

/-- The first instruction of a byte string, and the bytes after it. -/
def decodeBytes : List Byte → Except DecodeError (Instr × List Byte)
  | hi :: lo :: rest =>
    match decode (opcodeOf hi lo) with
    | some i => .ok (i, rest)
    | none => .error (.unknownOpcode (opcodeOf hi lo))
  | bytes => .error (.truncated bytes.length)

/-! ## The encoder (R73's layouts, most significant field first) -/

/-- A register index as a 4-bit field. -/
def regBits (r : Reg) : BitVec 4 := BitVec.ofFin r

/-- Format NNN: `hhhh nnnn nnnn nnnn`. -/
def formatNNN (h : BitVec 4) (nnn : Addr12) : Word := h ++ nnn
/-- Format XNN: `hhhh xxxx nnnn nnnn`; format X is this with a fixed low byte. -/
def formatXNN (h : BitVec 4) (x : Reg) (nn : Byte) : Word := (h ++ regBits x) ++ nn
/-- Formats XY and XYN: `hhhh xxxx yyyy ssss`, the low nibble a sub-opcode or the count. -/
def formatXYN (h : BitVec 4) (x y : Reg) (low : BitVec 4) : Word := (h ++ regBits x) ++ (regBits y ++ low)

/-- The opcode of an instruction. -/
def encode : Instr → Word
  | .op00E0 => 0x00E0#16
  | .op00EE => 0x00EE#16
  | .op1NNN nnn => formatNNN 0x1#4 nnn
  | .op2NNN nnn => formatNNN 0x2#4 nnn
  | .op3XNN x nn => formatXNN 0x3#4 x nn
  | .op4XNN x nn => formatXNN 0x4#4 x nn
  | .op5XY0 x y => formatXYN 0x5#4 x y 0x0#4
  | .op6XNN x nn => formatXNN 0x6#4 x nn
  | .op7XNN x nn => formatXNN 0x7#4 x nn
  | .op8XY0 x y => formatXYN 0x8#4 x y 0x0#4
  | .op8XY1 x y => formatXYN 0x8#4 x y 0x1#4
  | .op8XY2 x y => formatXYN 0x8#4 x y 0x2#4
  | .op8XY3 x y => formatXYN 0x8#4 x y 0x3#4
  | .op8XY4 x y => formatXYN 0x8#4 x y 0x4#4
  | .op8XY5 x y => formatXYN 0x8#4 x y 0x5#4
  | .op8XY6 x y => formatXYN 0x8#4 x y 0x6#4
  | .op8XY7 x y => formatXYN 0x8#4 x y 0x7#4
  | .op8XYE x y => formatXYN 0x8#4 x y 0xE#4
  | .op9XY0 x y => formatXYN 0x9#4 x y 0x0#4
  | .opANNN nnn => formatNNN 0xA#4 nnn
  | .opBNNN nnn => formatNNN 0xB#4 nnn
  | .opCXNN x nn => formatXNN 0xC#4 x nn
  | .opDXYN x y n => formatXYN 0xD#4 x y (BitVec.ofNat 4 n)
  | .opEX9E x => formatXNN 0xE#4 x 0x9E#8
  | .opEXA1 x => formatXNN 0xE#4 x 0xA1#8
  | .opFX07 x => formatXNN 0xF#4 x 0x07#8
  | .opFX0A x => formatXNN 0xF#4 x 0x0A#8
  | .opFX15 x => formatXNN 0xF#4 x 0x15#8
  | .opFX18 x => formatXNN 0xF#4 x 0x18#8
  | .opFX1E x => formatXNN 0xF#4 x 0x1E#8
  | .opFX29 x => formatXNN 0xF#4 x 0x29#8
  | .opFX33 x => formatXNN 0xF#4 x 0x33#8
  | .opFX55 x => formatXNN 0xF#4 x 0x55#8
  | .opFX65 x => formatXNN 0xF#4 x 0x65#8

/-- The high byte of an opcode, stored at the lower address (20_memory.md R52). -/
def highByte (op : Word) : Byte := op.extractLsb' 8 8
/-- The low byte of an opcode. -/
def lowByte (op : Word) : Byte := op.extractLsb' 0 8

/-- An instruction as it stands in memory: high byte, then low byte. -/
def encodeBytes (i : Instr) : List Byte := [highByte (encode i), lowByte (encode i)]

/-! ## The opcode table's match and mask -/

/-- One row of opcode_table.json. -/
structure OpcodeRow where
  mnemonic : String
  pattern : Word
  mask : Word
  deriving DecidableEq, Repr

/-- The row of an instruction: its mnemonic, match and mask as the table prints them. -/
def Instr.row : Instr → OpcodeRow
  | .op00E0 => ⟨"00E0", 0x00E0, 0xFFFF⟩
  | .op00EE => ⟨"00EE", 0x00EE, 0xFFFF⟩
  | .op1NNN _ => ⟨"1NNN", 0x1000, 0xF000⟩
  | .op2NNN _ => ⟨"2NNN", 0x2000, 0xF000⟩
  | .op3XNN _ _ => ⟨"3XNN", 0x3000, 0xF000⟩
  | .op4XNN _ _ => ⟨"4XNN", 0x4000, 0xF000⟩
  | .op5XY0 _ _ => ⟨"5XY0", 0x5000, 0xF00F⟩
  | .op6XNN _ _ => ⟨"6XNN", 0x6000, 0xF000⟩
  | .op7XNN _ _ => ⟨"7XNN", 0x7000, 0xF000⟩
  | .op8XY0 _ _ => ⟨"8XY0", 0x8000, 0xF00F⟩
  | .op8XY1 _ _ => ⟨"8XY1", 0x8001, 0xF00F⟩
  | .op8XY2 _ _ => ⟨"8XY2", 0x8002, 0xF00F⟩
  | .op8XY3 _ _ => ⟨"8XY3", 0x8003, 0xF00F⟩
  | .op8XY4 _ _ => ⟨"8XY4", 0x8004, 0xF00F⟩
  | .op8XY5 _ _ => ⟨"8XY5", 0x8005, 0xF00F⟩
  | .op8XY6 _ _ => ⟨"8XY6", 0x8006, 0xF00F⟩
  | .op8XY7 _ _ => ⟨"8XY7", 0x8007, 0xF00F⟩
  | .op8XYE _ _ => ⟨"8XYE", 0x800E, 0xF00F⟩
  | .op9XY0 _ _ => ⟨"9XY0", 0x9000, 0xF00F⟩
  | .opANNN _ => ⟨"ANNN", 0xA000, 0xF000⟩
  | .opBNNN _ => ⟨"BNNN", 0xB000, 0xF000⟩
  | .opCXNN _ _ => ⟨"CXNN", 0xC000, 0xF000⟩
  | .opDXYN _ _ _ => ⟨"DXYN", 0xD000, 0xF000⟩
  | .opEX9E _ => ⟨"EX9E", 0xE09E, 0xF0FF⟩
  | .opEXA1 _ => ⟨"EXA1", 0xE0A1, 0xF0FF⟩
  | .opFX07 _ => ⟨"FX07", 0xF007, 0xF0FF⟩
  | .opFX0A _ => ⟨"FX0A", 0xF00A, 0xF0FF⟩
  | .opFX15 _ => ⟨"FX15", 0xF015, 0xF0FF⟩
  | .opFX18 _ => ⟨"FX18", 0xF018, 0xF0FF⟩
  | .opFX1E _ => ⟨"FX1E", 0xF01E, 0xF0FF⟩
  | .opFX29 _ => ⟨"FX29", 0xF029, 0xF0FF⟩
  | .opFX33 _ => ⟨"FX33", 0xF033, 0xF0FF⟩
  | .opFX55 _ => ⟨"FX55", 0xF055, 0xF0FF⟩
  | .opFX65 _ => ⟨"FX65", 0xF065, 0xF0FF⟩

/-- An instruction of each row, in the table's order. -/
def oneOfEachRow : List Instr :=
  [.op00E0, .op00EE, .op1NNN 0, .op2NNN 0, .op3XNN 0 0, .op4XNN 0 0, .op5XY0 0 0, .op6XNN 0 0, .op7XNN 0 0] ++
  [.op8XY0 0 0, .op8XY1 0 0, .op8XY2 0 0, .op8XY3 0 0, .op8XY4 0 0, .op8XY5 0 0, .op8XY6 0 0, .op8XY7 0 0,
    .op8XYE 0 0] ++
  [.op9XY0 0 0, .opANNN 0, .opBNNN 0, .opCXNN 0 0, .opDXYN 0 0 0, .opEX9E 0, .opEXA1 0] ++
  [.opFX07 0, .opFX0A 0, .opFX15 0, .opFX18 0, .opFX1E 0, .opFX29 0, .opFX33 0, .opFX55 0, .opFX65 0]

/-- The 34 rows of opcode_table.json. -/
def opcodeTable : List OpcodeRow := oneOfEachRow.map Instr.row

/-! ## Assembler text (R90; no normative weight) -/

/-- One hexadecimal digit of `v`: digit 0 is the least significant. -/
def hexDigit (v digit : Nat) : String :=
  (["0", "1", "2", "3", "4", "5", "6", "7", "8", "9", "A", "B", "C", "D", "E", "F"][v / 16 ^ digit % 16]?).getD "0"

/-- `Vx`. -/
def regText (r : Reg) : String := "V" ++ hexDigit r.val 0
/-- `nn`. -/
def byteText (b : Byte) : String := "0x" ++ hexDigit b.toNat 1 ++ hexDigit b.toNat 0
/-- `nnn`. -/
def addrText (a : Addr12) : String := "0x" ++ hexDigit a.toNat 2 ++ hexDigit a.toNat 1 ++ hexDigit a.toNat 0

/-- The text of an instruction in R90's syntax. `SHR` and `SHL` print no `y`; each text is one opcode (R91). -/
def Instr.assembly : Instr → String
  | .op00E0 => "CLS"
  | .op00EE => "RET"
  | .op1NNN nnn => "JP " ++ addrText nnn
  | .op2NNN nnn => "CALL " ++ addrText nnn
  | .op3XNN x nn => "SE " ++ regText x ++ ", " ++ byteText nn
  | .op4XNN x nn => "SNE " ++ regText x ++ ", " ++ byteText nn
  | .op5XY0 x y => "SE " ++ regText x ++ ", " ++ regText y
  | .op6XNN x nn => "LD " ++ regText x ++ ", " ++ byteText nn
  | .op7XNN x nn => "ADD " ++ regText x ++ ", " ++ byteText nn
  | .op8XY0 x y => "LD " ++ regText x ++ ", " ++ regText y
  | .op8XY1 x y => "OR " ++ regText x ++ ", " ++ regText y
  | .op8XY2 x y => "AND " ++ regText x ++ ", " ++ regText y
  | .op8XY3 x y => "XOR " ++ regText x ++ ", " ++ regText y
  | .op8XY4 x y => "ADD " ++ regText x ++ ", " ++ regText y
  | .op8XY5 x y => "SUB " ++ regText x ++ ", " ++ regText y
  | .op8XY6 x _ => "SHR " ++ regText x
  | .op8XY7 x y => "SUBN " ++ regText x ++ ", " ++ regText y
  | .op8XYE x _ => "SHL " ++ regText x
  | .op9XY0 x y => "SNE " ++ regText x ++ ", " ++ regText y
  | .opANNN nnn => "LD I, " ++ addrText nnn
  | .opBNNN nnn => "JP V0, " ++ addrText nnn
  | .opCXNN x nn => "RND " ++ regText x ++ ", " ++ byteText nn
  | .opDXYN x y n => "DRW " ++ regText x ++ ", " ++ regText y ++ ", " ++ hexDigit n 0
  | .opEX9E x => "SKP " ++ regText x
  | .opEXA1 x => "SKNP " ++ regText x
  | .opFX07 x => "LD " ++ regText x ++ ", DT"
  | .opFX0A x => "LD " ++ regText x ++ ", K"
  | .opFX15 x => "LD DT, " ++ regText x
  | .opFX18 x => "LD ST, " ++ regText x
  | .opFX1E x => "ADD I, " ++ regText x
  | .opFX29 x => "LD F, " ++ regText x
  | .opFX33 x => "LD B, " ++ regText x
  | .opFX55 x => "LD [I], " ++ regText x
  | .opFX65 x => "LD " ++ regText x ++ ", [I]"

/-! ## The host's view of a table word -/

/-- The instruction this decoder reads from the table's word `w` of `nbits` bits: every instruction is one 16-bit
word, stored high byte first (R70, 20_memory.md R52). -/
def decodeTableWord (nbits w : Nat) : Option Instr :=
  let op : Word := BitVec.ofNat 16 (w % 2 ^ nbits)
  match decodeBytes [highByte op, lowByte op] with
  | .ok (i, _) => some i
  | .error _ => none

end Sys2Proof
end

