-- ==== Sys2Proof/Config.lean ====
section
/-! DEFINITION. What 00_scope.md R7 leaves open. `RAND` is the one free value: a constant with no body. `TICK_CADENCE`
is a type here and a field of State (log entry 14). `FONT` is an argument of `State.create`, its default in
Machine/Memory.lean (log entry 3). -/

namespace Sys2Proof

/-- TICK_CADENCE (60_exceptions.md R213): how the host interleaves `tick()` with `step()`. -/
inductive TickCadence where
  /-- One `tick()` after every `step()`, whatever its result. -/
  | perStep
  /-- The host calls `tick()` when it likes. -/
  | host
  deriving DecidableEq, Repr

/-- RAND (42_registers_alu.md R141): the byte the collaborator supplies to the n-th execution of CXNN, under no law.
A free value (log entry 16). -/
opaque Config.rand : Nat → Byte

end Sys2Proof
end

