-- ==== Sys2Proof/Machine/State.lean ====
section
/-! DEFINITION. The state of the machine: the eleven elements of 10_state.md R20, six fields of the model's own, and
the state after `create()`. -/

namespace Sys2Proof.Machine

open Sys2Proof

/-- A fault record (60_exceptions.md R201, R203). A step that raises one is a next state in which the record is the
`result` and heads `faults` (log entry 1); no operation of this machine ends in `Outcome.fault`. -/
inductive Fault where
  /-- Raised by `step()` when the opcode matches no pattern; PC has advanced by 2 (R202). Safe: the spec's own
  words. -/
  | decodeFault (pc opcode : Word)
  /-- Raised by 2NNN when SP = 16; the step is void (R205, decision D5). Unsafe where the hardware clamps (log
  entry 8). -/
  | stackOverflow (pc opcode : Word)
  /-- Raised by 00EE when SP = 0; the step is void. Unsafe where the hardware clamps (log entry 8). -/
  | stackUnderflow (pc opcode : Word)
  /-- Raised by DXYN with n > 0, FX33, FX55 and FX65 when the last byte address `addr` passes 4095; the step is void.
  Unsafe where the hardware leaves a partial effect (log entry 13). -/
  | memoryRange (pc opcode : Word) (addr : Nat)
  /-- Raised by `step()` when PC > 4094; the step is void. Unsafe where the hardware wraps (log entry 9). -/
  | fetchRange (pc : Word)
  /-- Raised by EX9E and EXA1 when V[x] > 15; the step is void. Unsafe where the hardware masks (log entry 11). -/
  | keyRange (pc opcode : Word) (key : Byte)
  /-- Returned by `loadProgram`, not by `step()`, for an image of more than 3584 bytes; nothing is written. Safe: the
  spec's own words. -/
  | loadTooLarge (length : Nat)
  deriving DecidableEq, Repr

/-- Why an operation has no meaning. -/
inductive Refusal where
  /-- An instruction that has no meaning yet; safe. -/
  | notModelled (mnemonic : String)
  /-- Raised by `tick()` under PER_STEP when no step waits for one, an extra tick, which 60_exceptions.md R223 gives no
  move. Unsafe as R223 says: it errs toward proving for a host that breaks the contract (log entry 17). -/
  | extraTick
  /-- Raised by `step()` while the tick of the step before is owed, a missing tick, which R223 gives no move. Unsafe in
  the same way (log entry 17). -/
  | missingTick
  deriving DecidableEq, Repr

/-- What an operation returns to the host (60_exceptions.md R204, R215 to R218, 70_reset_and_hazards.md R233). -/
inductive OpResult where
  /-- The operation returns nothing (`create`, `init`, `tick`, `setKey`, `clearDirty`). -/
  | nothing
  /-- `step()`: the instruction executed. -/
  | ok
  /-- `step()`: FX0A found no key down. -/
  | waiting
  /-- `step()` or `loadProgram`: a fault record. -/
  | fault (record : Fault)
  /-- `loadProgram` accepted the image. -/
  | loaded
  /-- `readPixel`. -/
  | pixel (lit : Bool)
  /-- `readDirty`. -/
  | dirty (flag : Bool)
  /-- `readDT` and `readST`. -/
  | timer (value : Byte)
  deriving DecidableEq, Repr

/-- The operations the host calls on a created machine (00_scope.md R8). An index out of range, which is no legal
call (60_exceptions.md R223), cannot be written. -/
inductive HostOp where
  | step
  | tick
  | init
  | loadProgram (image : List Byte)
  | setKey (k : Key) (down : Bool)
  | readPixel (px : Fin 64) (py : Fin 32)
  | readDirty
  | clearDirty
  | readDT
  | readST
  deriving DecidableEq, Repr

/-- Memory: the bytes that differ from their value at `create()` (Machine/Memory.lean), addresses rising. -/
abbrev Memory := List Host.Cell

/-- The 64 x 32 grid, `fb[x][y]` with column x and row y (10_state.md R31). -/
abbrev Framebuffer := Vector (Vector Bool 32) 64

/-- The machine. The first eleven fields are 10_state.md R20; "nothing else is state". The last six are the model's
own (log entries 2, 14, 15, 16). -/
structure State where
  /-- MEM[0..4095] (20_memory.md R50). -/
  mem : Memory
  /-- V[0..15] (R21). -/
  v : Vector Byte 16
  /-- I (R26). -/
  i : Word
  /-- PC (R24). -/
  pc : Word
  /-- SP, the number of return addresses on the stack, 0..16 (R27). -/
  sp : Fin 17
  /-- STACK[0..15] (R28). -/
  stack : Vector Word 16
  /-- DT (R29). -/
  dt : Byte
  /-- ST (R30). -/
  st : Byte
  /-- FB (R31). -/
  fb : Framebuffer
  /-- DIRTY (R32). -/
  dirty : Bool
  /-- KEY[0..15] (R33). -/
  key : Vector Bool 16
  /-- The model's: TICK_CADENCE (60_exceptions.md R213). -/
  cadence : TickCadence
  /-- The model's: under PER_STEP, a `step()` has been performed and its `tick()` has not (R213). -/
  tickOwed : Bool
  /-- The model's: host operations still to be performed, oldest first; after the last one the host calls `step()`, and
  `tick()` where one is owed. -/
  schedule : List HostOp
  /-- The model's: random bytes consumed so far. -/
  draws : Nat
  /-- The model's: what the last operation returned. -/
  result : OpResult
  /-- The model's: every fault record reported, newest first (decision D6: "a log no operation clears"). -/
  faults : List Fault
  deriving DecidableEq, Repr

/-- The state after `create()` with the default FONT (10_state.md R37, 70_reset_and_hazards.md R230, R231). -/
def State.reset : State where
  mem := []
  v := Vector.replicate 16 0
  i := 0
  pc := 512
  sp := 0
  stack := Vector.replicate 16 0
  dt := 0
  st := 0
  fb := Vector.replicate 64 (Vector.replicate 32 false)
  dirty := false
  key := Vector.replicate 16 false
  cadence := .perStep
  tickOwed := false
  schedule := []
  draws := 0
  result := .nothing
  faults := []

end Sys2Proof.Machine
end

