-- ==== Sys2Proof/Machine/Memory.lean ====
section
/-! DEFINITION. Memory (20_memory.md): what `create()` puts in it, reading and writing one byte, the canonical form,
and the ascending transfers of R53. -/

namespace Sys2Proof.Machine

open Sys2Proof

/-! ## Contents at create (70_reset_and_hazards.md R230) -/

/-- The default FONT (95_test_vectors.md 1.3; from general knowledge, log entry 3): 16 glyphs of 5 bytes. -/
def defaultFont : List Byte :=
  [0xF0, 0x90, 0x90, 0x90, 0xF0, 0x20, 0x60, 0x20, 0x20, 0x70, 0xF0, 0x10, 0xF0, 0x80, 0xF0, 0xF0, 0x10, 0xF0, 0x10, 0xF0] ++
  [0x90, 0x90, 0xF0, 0x10, 0x10, 0xF0, 0x80, 0xF0, 0x10, 0xF0, 0xF0, 0x80, 0xF0, 0x90, 0xF0, 0xF0, 0x10, 0x20, 0x40, 0x40] ++
  [0xF0, 0x90, 0xF0, 0x90, 0xF0, 0xF0, 0x90, 0xF0, 0x10, 0xF0, 0xF0, 0x90, 0xF0, 0x90, 0x90, 0xE0, 0x90, 0xE0, 0x90, 0xE0] ++
  [0xF0, 0x80, 0x80, 0x80, 0xF0, 0xE0, 0x90, 0x90, 0x90, 0xE0, 0xF0, 0x80, 0xF0, 0x80, 0xF0, 0xF0, 0x80, 0xF0, 0x80, 0x80]

/-- What an address that memory does not list reads as: its contents at `create()`, FONT at 0x000..0x04F and 0
elsewhere (R230). -/
def Memory.atCreate (a : Nat) : Byte := defaultFont.getD a 0

/-! ## One byte (00_scope.md R13) -/

/-- `MemRead(a, 1)`. The spec defines it for addresses 0..4095; the callers check the range (R55, R56). -/
def Memory.read : Memory → Nat → Byte
  | [], a => Memory.atCreate a
  | (b, w) :: rest, a => if b = a then w else Memory.read rest a

/-- Put a cell in its place by address. -/
def Memory.insertCell (a : Nat) (w : Byte) : Memory → Memory
  | [] => [(a, w)]
  | (b, u) :: rest => if a < b then (a, w) :: (b, u) :: rest else (b, u) :: Memory.insertCell a w rest

/-- `MemWrite(a, 1, w)`: the cell is listed unless `w` is what the address held at create. -/
def Memory.write (m : Memory) (a : Nat) (w : Byte) : Memory :=
  let others := m.filter fun c => c.1 != a
  if w = Memory.atCreate a then others else Memory.insertCell a w others

/-- The canonical form: addresses in 0..4095 and strictly rising, no cell equal to its value at create. -/
def Memory.wf : Memory → Bool
  | [] => true
  | (a, w) :: rest =>
    decide (a ≤ 4095) && decide (w ≠ Memory.atCreate a) && rest.all (fun c => decide (a < c.1)) && Memory.wf rest

/-! ## Several bytes, one per address, ascending (20_memory.md R53) -/

/-- `InRange(a, k)`: the k bytes from a all lie in memory (R13); nothing is wrapped (R55). -/
abbrev InRange (a k : Nat) : Prop := a + k ≤ 4096

/-- Write the bytes at a, a + 1, … in that order. -/
def Memory.storeBytes (m : Memory) (a : Nat) : List Byte → Memory
  | [] => m
  | w :: rest => Memory.storeBytes (m.write a w) (a + 1) rest

/-- The k bytes at a, a + 1, …. -/
def Memory.loadBytes (m : Memory) (a : Nat) : Nat → List Byte
  | 0 => []
  | k + 1 => m.read a :: Memory.loadBytes m (a + 1) k

end Sys2Proof.Machine
end

