-- ==== Sys2Proof/Machine/Flags.lean ====
section
/-! DEFINITION. What the flag-writing instructions put in VF (10_state.md R22), on unbounded unsigned integers
(00_scope.md R11). -/

namespace Sys2Proof.Machine

open Sys2Proof

/-- A condition as a flag byte, `[c]` of 42_registers_alu.md R143: 1 when it holds, else 0. -/
def flagOf (c : Bool) : Byte := if c then 1 else 0

/-- 8XY4 (R136): 1 if the sum of the old values is above 255. -/
def carryFlag (a b : Byte) : Byte := flagOf (decide (a.toNat + b.toNat > 255))

/-- 8XY5 and 8XY7 (R137, R139): 0 if the subtrahend b is above a, else 1; equal gives 1. -/
def noBorrowFlag (a b : Byte) : Byte := flagOf (!decide (b.toNat > a.toNat))

/-- 8XY6 (R138): the bit shifted out on the right, bit 0. -/
def shiftedOutRight (a : Byte) : Byte := flagOf (a.getLsbD 0)

/-- 8XYE (R140): the bit shifted out on the left, bit 7. -/
def shiftedOutLeft (a : Byte) : Byte := flagOf (a.getLsbD 7)

/-- FX1E (43_index_memory.md R151): 1 if I + V[x] passes the top of memory. -/
def pastMemoryFlag (i : Word) (a : Byte) : Byte := flagOf (decide (i.toNat + a.toNat > 4095))

end Sys2Proof.Machine
end

