-- ==== Sys2Proof/Machine/Operands.lean ====
section
/-! DEFINITION. Operand forms (30_encoding.md R72, 43_index_memory.md R156): a register, an immediate, an address from
`nnn`, and "index plus offset". Every read and write of a register goes through here. -/

namespace Sys2Proof.Machine

open Sys2Proof

/-- `V[r]`. None is hard-wired, banked or aliased (10_state.md R21). -/
def State.V (s : State) (r : Reg) : Byte := s.v[r.val]

/-- `V[r] <- b`. -/
def State.setV (s : State) (r : Reg) (b : Byte) : State := { s with v := s.v.set r.val b }

/-- `zext_16` of a byte (00_scope.md R11). -/
def zextByte (b : Byte) : Word := b.setWidth 16

/-- `zext_16(nnn)` (R72): the 12-bit address as a 16-bit value. -/
def zextAddr (a : Addr12) : Word := a.setWidth 16

/-- The data address `I + k`, computed without truncation (20_memory.md R55). -/
def State.dataAddr (s : State) (k : Nat) : Nat := s.i.toNat + k

/-- Do the k bytes from I lie in memory? -/
abbrev State.dataInRange (s : State) (k : Nat) : Prop := InRange (s.dataAddr 0) k

/-- V[0], …, V[x] (43_index_memory.md R154). -/
def State.firstRegs (s : State) (x : Reg) : List Byte := s.v.toList.take (x.val + 1)

/-- `V[i], V[i+1], … <- bytes`, ascending. Registers past V[15] do not exist, and no instruction names one. -/
def setRegsFrom (v : Vector Byte 16) (i : Nat) : List Byte → Vector Byte 16
  | [] => v
  | b :: rest => setRegsFrom (v.setIfInBounds i b) (i + 1) rest

/-- `V[0], V[1], … <- bytes` (43_index_memory.md R155). -/
def State.setFirstRegs (s : State) (bytes : List Byte) : State := { s with v := setRegsFrom s.v 0 bytes }

end Sys2Proof.Machine
end

