-- ==== Sys2Proof/Machine/Screen.lean ====
section
/-! DEFINITION. The framebuffer's operations (40_display.md): a pixel, `clear()`, `toggle(x, y)`, and XOR-drawing a
sprite with wrap-around. -/

namespace Sys2Proof.Machine

open Sys2Proof

/-- `FB[px][py]`. -/
def Framebuffer.pixel (f : Framebuffer) (px : Fin 64) (py : Fin 32) : Bool := f[px.val][py.val]

/-- `FB[px][py] <- lit`. -/
def Framebuffer.setPixel (f : Framebuffer) (px : Fin 64) (py : Fin 32) (lit : Bool) : Framebuffer :=
  Vector.set f px.val (f[px.val].set py.val lit)

/-- Every pixel 0 (R100). -/
def Framebuffer.clear : Framebuffer := Vector.replicate 64 (Vector.replicate 32 false)

/-- Column `(X + column) mod 64` (R102). -/
def wrapX (cx : Byte) (column : Nat) : Fin 64 := ⟨(cx.toNat + column) % 64, Nat.mod_lt _ (by decide)⟩

/-- Row `(Y + row) mod 32` (R102). -/
def wrapY (cy : Byte) (row : Nat) : Fin 32 := ⟨(cy.toNat + row) % 32, Nat.mod_lt _ (by decide)⟩

/-- A framebuffer being drawn on, and whether a pixel has gone from 1 to 0 so far. -/
structure Drawing where
  fb : Framebuffer
  collided : Bool
  deriving DecidableEq, Repr

/-- `toggle(x, y)` (R105): XOR one pixel; it collides if the pixel was 1. -/
def Drawing.toggle (d : Drawing) (px : Fin 64) (py : Fin 32) : Drawing where
  fb := d.fb.setPixel px py (!d.fb.pixel px py)
  collided := d.collided || d.fb.pixel px py

/-- One row of a sprite: bit 7 is column 0; a set bit toggles its pixel, a zero bit leaves it (R101). -/
def Drawing.drawRow (d : Drawing) (cx cy : Byte) (r : Nat) (row : Byte) : Drawing :=
  [0, 1, 2, 3, 4, 5, 6, 7].foldl
    (fun d c => if row.getLsbD (7 - c) then d.toggle (wrapX cx c) (wrapY cy r) else d) d

/-- The rows of a sprite from row `r` on (R101). -/
def Drawing.drawRows (d : Drawing) (cx cy : Byte) (r : Nat) : List Byte → Drawing
  | [] => d
  | row :: rest => Drawing.drawRows (d.drawRow cx cy r row) cx cy (r + 1) rest

end Sys2Proof.Machine
end

