-- ==== Sys2Proof/Machine/Ops.lean ====
section
/-! DEFINITION. The operations the meanings share: results and faults, the advances of PC, the call stack, the key
latch, and the random input. -/

namespace Sys2Proof.Machine

open Sys2Proof

/-! ## Results and faults (60_exceptions.md) -/

/-- What the operation returns. `step()` starts from `ok` and an instruction overrides it (30_encoding.md R74). -/
def State.returning (s : State) (r : OpResult) : State := { s with result := r }

/-- RAISE A FAULT: the one operation every fault goes through. No trap is entered: nothing is saved, no mode changes
and control goes nowhere (R200, R209); the record is returned once to the caller (R206) and kept in the log. There is
no return from a fault (R210): the next `step()` runs at the PC this state has. -/
def State.reporting (s : State) (f : Fault) : State := { s with result := .fault f, faults := f :: s.faults }

/-- End an instruction in a fault raised at the state it began in: the step is void (R205). -/
def raise (f : Fault) (s : State) : Host.Outcome State Fault Refusal := .next (s.reporting f)

/-- The numbers of R201. -/
def Fault.code : Fault → Nat
  | .decodeFault _ _ => 1
  | .stackOverflow _ _ => 2
  | .stackUnderflow _ _ => 3
  | .memoryRange _ _ _ => 4
  | .fetchRange _ => 5
  | .keyRange _ _ _ => 6
  | .loadTooLarge _ => 7

/-- A fault of `step()` other than DecodeFault: for a claim, the run ends (70_reset_and_hazards.md R246). A rejected
image is no fault of a step. -/
def Fault.endsRun : Fault → Bool
  | .decodeFault _ _ | .loadTooLarge _ => false
  | .stackOverflow _ _ | .stackUnderflow _ _ | .memoryRange _ _ _ | .fetchRange _ | .keyRange _ _ _ => true

/-! ## Program counter (10_state.md R24) -/

/-- `PC <- (PC + 2)[15:0]`. -/
def State.advance (s : State) : State := { s with pc := s.pc + 2 }

/-- `PC <- target`, unchecked (41_control_flow.md R118). -/
def State.jumpTo (s : State) (target : Word) : State := { s with pc := target }

/-- A skip: PC + 4 if the condition holds, else PC + 2; the skipped word is not looked at (R118). -/
def State.skipIf (s : State) (c : Bool) : State := { s with pc := if c then s.pc + 4 else s.pc + 2 }

/-! ## Call stack (10_state.md R27, R28) -/

/-- `STACK[SP] <- a; SP <- SP + 1`; none when SP = 16. -/
def State.push (s : State) (a : Word) : Option State :=
  if h : s.sp.val < 16 then some { s with stack := s.stack.set s.sp.val a h, sp := ⟨s.sp.val + 1, by omega⟩ } else none

/-- `SP <- SP - 1`, and the entry `STACK[SP]`, which keeps its value; none when SP = 0. -/
def State.pop (s : State) : Option (Word × State) :=
  if h : s.sp.val = 0 then none
  else some (s.stack[s.sp.val - 1]'(by omega), { s with sp := ⟨s.sp.val - 1, by omega⟩ })

/-! ## Input latch (10_state.md R33) -/

/-- `KEY[k]`. -/
def State.keyDown (s : State) (k : Key) : Bool := s.key[k.val]

/-- The key a register value names; none above 15, where the latch has no entry (decision D10). -/
def keyOf (b : Byte) : Option Key := if h : b.toNat < 16 then some ⟨b.toNat, h⟩ else none

/-- The 16 keys in ascending order. -/
def allKeys : List Key := [0, 1, 2, 3, 4, 5, 6, 7, 8, 9, 10, 11, 12, 13, 14, 15]

/-- The least k with KEY[k] = 1 (44_input_timers.md R173). -/
def State.leastKeyDown (s : State) : Option Key := allKeys.find? s.keyDown

/-! ## Random input (60_exceptions.md R219) -/

/-- `rand8()`: the byte of this draw. -/
def State.rand8 (s : State) : Byte := Config.rand s.draws

/-- The draw is consumed. -/
def State.drawn (s : State) : State := { s with draws := s.draws + 1 }

end Sys2Proof.Machine
end

