-- ==== Sys2Proof/Machine/ControlFlow.lean ====
section
/-! DEFINITION. Control transfer (41_control_flow.md). -/

namespace Sys2Proof.Machine

open Sys2Proof

/-- 00EE (R110): pop, and resume 2 past the pushed address (R119). -/
def exec00EE (s : State) : Host.Outcome State Fault Refusal :=
  match s.pop with
  | none => raise (.stackUnderflow s.pc (encode .op00EE)) s
  | some (a, t) => .next (t.jumpTo (a + 2))

/-- 1NNN (R111). -/
def exec1NNN (nnn : Addr12) (s : State) : Host.Outcome State Fault Refusal :=
  .next (s.jumpTo (zextAddr nnn))

/-- 2NNN (R112): push the address of this instruction, then jump. -/
def exec2NNN (nnn : Addr12) (s : State) : Host.Outcome State Fault Refusal :=
  match s.push s.pc with
  | none => raise (.stackOverflow s.pc (encode (.op2NNN nnn))) s
  | some t => .next (t.jumpTo (zextAddr nnn))

/-- 3XNN (R113). -/
def exec3XNN (x : Reg) (nn : Byte) (s : State) : Host.Outcome State Fault Refusal :=
  .next (s.skipIf (s.V x == nn))

/-- 4XNN (R114). -/
def exec4XNN (x : Reg) (nn : Byte) (s : State) : Host.Outcome State Fault Refusal :=
  .next (s.skipIf (s.V x != nn))

/-- 5XY0 (R115). -/
def exec5XY0 (x y : Reg) (s : State) : Host.Outcome State Fault Refusal :=
  .next (s.skipIf (s.V x == s.V y))

/-- 9XY0 (R116). -/
def exec9XY0 (x y : Reg) (s : State) : Host.Outcome State Fault Refusal :=
  .next (s.skipIf (s.V x != s.V y))

/-- BNNN (R117): always register 0; the sum is not reduced to 12 bits. -/
def execBNNN (nnn : Addr12) (s : State) : Host.Outcome State Fault Refusal :=
  .next (s.jumpTo (zextAddr nnn + zextByte (s.V 0)))

end Sys2Proof.Machine
end

