-- ==== Sys2Proof/Machine/Display.lean ====
section
/-! DEFINITION. The display instructions (40_display.md). -/

namespace Sys2Proof.Machine

open Sys2Proof

/-- 00E0 (R100): every pixel 0, DIRTY always set. -/
def exec00E0 (s : State) : Host.Outcome State Fault Refusal :=
  .next { s with fb := Framebuffer.clear, dirty := true }.advance

/-- The n rows at I drawn at (V[x], V[y]), both read before any write (R101). -/
def State.spriteDrawn (s : State) (x y : Reg) (n : Nat) : Drawing :=
  Drawing.drawRows ⟨s.fb, false⟩ (s.V x) (s.V y) 0 (s.mem.loadBytes (s.dataAddr 0) n)

/-- DXYN (R101): the range check first, then the drawing, VF, DIRTY and PC. n = 0 touches no byte and cannot fault. -/
def execDXYN (x y : Reg) (n : Nat) (s : State) : Host.Outcome State Fault Refusal :=
  if n > 0 ∧ ¬ s.dataInRange n then
    raise (.memoryRange s.pc (encode (.opDXYN x y n)) (s.dataAddr (n - 1))) s
  else
    let d := s.spriteDrawn x y n
    .next ({ s with fb := d.fb, dirty := true }.setV VF (flagOf d.collided)).advance

end Sys2Proof.Machine
end

