-- ==== Sys2Proof/Machine/IndexMemory.lean ====
section
/-! DEFINITION. The index register and memory transfer (43_index_memory.md). The range check covers every byte before
the first write (20_memory.md R55); I is not changed by a transfer (R156). -/

namespace Sys2Proof.Machine

open Sys2Proof

/-- ANNN (R150). -/
def execANNN (nnn : Addr12) (s : State) : Host.Outcome State Fault Refusal :=
  .next { s with i := zextAddr nnn }.advance

/-- FX1E (R151): VF gets the over-4095 flag, then I the sum mod 65536; x = 15 adds the new VF. -/
def execFX1E (x : Reg) (s : State) : Host.Outcome State Fault Refusal :=
  let t := s.setV VF (pastMemoryFlag s.i (s.V x))
  .next { t with i := t.i + zextByte (t.V x) }.advance

/-- FX29 (R152): the glyph base, V[x] not masked. -/
def execFX29 (x : Reg) (s : State) : Host.Outcome State Fault Refusal :=
  .next { s with i := zextByte (s.V x) * 5 }.advance

/-- The decimal digits of a byte, hundreds, tens, units (R153). -/
def decimalDigits (b : Byte) : List Byte :=
  [BitVec.ofNat 8 (b.toNat / 100), BitVec.ofNat 8 (b.toNat / 10 % 10), BitVec.ofNat 8 (b.toNat % 10)]

/-- FX33 (R153). -/
def execFX33 (x : Reg) (s : State) : Host.Outcome State Fault Refusal :=
  if s.dataInRange 3 then
    .next { s with mem := s.mem.storeBytes (s.dataAddr 0) (decimalDigits (s.V x)) }.advance
  else raise (.memoryRange s.pc (encode (.opFX33 x)) (s.dataAddr 2)) s

/-- FX55 (R154): V[0]..V[x], x inclusive. -/
def execFX55 (x : Reg) (s : State) : Host.Outcome State Fault Refusal :=
  if s.dataInRange (x.val + 1) then
    .next { s with mem := s.mem.storeBytes (s.dataAddr 0) (s.firstRegs x) }.advance
  else raise (.memoryRange s.pc (encode (.opFX55 x)) (s.dataAddr x.val)) s

/-- FX65 (R155): V[0]..V[x], x inclusive; registers above x keep their values. -/
def execFX65 (x : Reg) (s : State) : Host.Outcome State Fault Refusal :=
  if s.dataInRange (x.val + 1) then
    .next (s.setFirstRegs (s.mem.loadBytes (s.dataAddr 0) (x.val + 1))).advance
  else raise (.memoryRange s.pc (encode (.opFX65 x)) (s.dataAddr x.val)) s

end Sys2Proof.Machine
end

