-- ==== Sys2Proof/Machine/InputTimers.lean ====
section
/-! DEFINITION. Key input and timer access (44_input_timers.md). -/

namespace Sys2Proof.Machine

open Sys2Proof

/-- EX9E (R170): skip if the key is down; a key index above 15 faults. -/
def execEX9E (x : Reg) (s : State) : Host.Outcome State Fault Refusal :=
  match keyOf (s.V x) with
  | none => raise (.keyRange s.pc (encode (.opEX9E x)) (s.V x)) s
  | some k => .next (s.skipIf (s.keyDown k))

/-- EXA1 (R171): skip if the key is up; a key index above 15 faults. -/
def execEXA1 (x : Reg) (s : State) : Host.Outcome State Fault Refusal :=
  match keyOf (s.V x) with
  | none => raise (.keyRange s.pc (encode (.opEXA1 x)) (s.V x)) s
  | some k => .next (s.skipIf (!s.keyDown k))

/-- FX07 (R172). -/
def execFX07 (x : Reg) (s : State) : Host.Outcome State Fault Refusal :=
  .next (s.setV x s.dt).advance

/-- FX0A (R173): with no key down it returns `waiting` and PC still points at it; else the least key goes to V[x]. -/
def execFX0A (x : Reg) (s : State) : Host.Outcome State Fault Refusal :=
  match s.leastKeyDown with
  | none => .next (s.returning .waiting)
  | some k => .next (s.setV x (BitVec.ofNat 8 k.val)).advance

/-- FX15 (R174). -/
def execFX15 (x : Reg) (s : State) : Host.Outcome State Fault Refusal :=
  .next { s with dt := s.V x }.advance

/-- FX18 (R175). -/
def execFX18 (x : Reg) (s : State) : Host.Outcome State Fault Refusal :=
  .next { s with st := s.V x }.advance

end Sys2Proof.Machine
end

