-- ==== Sys2Proof/Machine/RegistersAlu.lean ====
section
/-! DEFINITION. Register loads and arithmetic (42_registers_alu.md). In the flag-writing instructions the statements run
in the pseudocode's order, VF first: the result reads VF's new value when x or y is 15 (00_scope.md R14, log entry 6). -/

namespace Sys2Proof.Machine

open Sys2Proof

/-- 6XNN (R130). -/
def exec6XNN (x : Reg) (nn : Byte) (s : State) : Host.Outcome State Fault Refusal :=
  .next (s.setV x nn).advance

/-- 7XNN (R131): byte wraparound, no flag. -/
def exec7XNN (x : Reg) (nn : Byte) (s : State) : Host.Outcome State Fault Refusal :=
  .next (s.setV x (s.V x + nn)).advance

/-- 8XY0 (R132). -/
def exec8XY0 (x y : Reg) (s : State) : Host.Outcome State Fault Refusal :=
  .next (s.setV x (s.V y)).advance

/-- 8XY1 (R133): VF is not reset. -/
def exec8XY1 (x y : Reg) (s : State) : Host.Outcome State Fault Refusal :=
  .next (s.setV x (s.V x ||| s.V y)).advance

/-- 8XY2 (R134): VF is not reset. -/
def exec8XY2 (x y : Reg) (s : State) : Host.Outcome State Fault Refusal :=
  .next (s.setV x (s.V x &&& s.V y)).advance

/-- 8XY3 (R135): VF is not reset. -/
def exec8XY3 (x y : Reg) (s : State) : Host.Outcome State Fault Refusal :=
  .next (s.setV x (s.V x ^^^ s.V y)).advance

/-- 8XY4 (R136): VF gets the carry of the old values, then V[x] the sum. -/
def exec8XY4 (x y : Reg) (s : State) : Host.Outcome State Fault Refusal :=
  let t := s.setV VF (carryFlag (s.V x) (s.V y))
  .next (t.setV x (t.V x + t.V y)).advance

/-- 8XY5 (R137): VF gets NOT borrow, then V[x] the difference V[x] - V[y]. -/
def exec8XY5 (x y : Reg) (s : State) : Host.Outcome State Fault Refusal :=
  let t := s.setV VF (noBorrowFlag (s.V x) (s.V y))
  .next (t.setV x (t.V x - t.V y)).advance

/-- 8XY6 (R138): VF gets bit 0 of V[x], then V[x] shifts right by one; V[y] is not read (30_encoding.md R82). -/
def exec8XY6 (x _y : Reg) (s : State) : Host.Outcome State Fault Refusal :=
  let t := s.setV VF (shiftedOutRight (s.V x))
  .next (t.setV x (t.V x >>> 1)).advance

/-- 8XY7 (R139): VF gets NOT borrow of V[y] - V[x], then V[x] that difference. -/
def exec8XY7 (x y : Reg) (s : State) : Host.Outcome State Fault Refusal :=
  let t := s.setV VF (noBorrowFlag (s.V y) (s.V x))
  .next (t.setV x (t.V y - t.V x)).advance

/-- 8XYE (R140): VF gets bit 7 of V[x], then V[x] shifts left by one; V[y] is not read (30_encoding.md R82). -/
def exec8XYE (x _y : Reg) (s : State) : Host.Outcome State Fault Refusal :=
  let t := s.setV VF (shiftedOutLeft (s.V x))
  .next (t.setV x (t.V x <<< 1)).advance

/-- V[x] <- r AND nn for a random byte r. -/
def State.loadMasked (s : State) (x : Reg) (nn r : Byte) : State := s.setV x (r &&& nn)

/-- CXNN (R141): consumes one byte of the random input. -/
def execCXNN (x : Reg) (nn : Byte) (s : State) : Host.Outcome State Fault Refusal :=
  .next (s.drawn.loadMasked x nn s.rand8).advance

end Sys2Proof.Machine
end

