-- ==== Sys2Proof/Machine/HostOps.lean ====
section
/-! DEFINITION. The host-facing operations other than `step()` (60_exceptions.md R212 to R218,
70_reset_and_hazards.md R230 to R235). Each is one atomic transaction (20_memory.md R59). -/

namespace Sys2Proof.Machine

open Sys2Proof

/-- One timer's decrement: a timer at 0 stays at 0. -/
def countDown (t : Byte) : Byte := if t.toNat > 0 then t - 1 else t

/-- `tick()` (R212): each timer above 0 loses 1; nothing else is read or written. -/
def State.tick (s : State) : State := { s with dt := countDown s.dt, st := countDown s.st }

/-- Does the host owe a `tick()` after a `step()` under this cadence (R213)? -/
def owesTick : TickCadence → Bool
  | .perStep => true
  | .host => false

/-- A `step()` begins: under PER_STEP its tick is owed from here on, whatever the step's result. -/
def State.stepBegun (s : State) : State := { s with tickOwed := owesTick s.cadence }

/-- The owed tick has been performed. -/
def State.tickPaid (s : State) : State := { s with tickOwed := false }

/-- `init()` (70_reset_and_hazards.md R232): every element but memory takes its value of 10_state.md R37. The model's
own fields are not elements of R37 and stay. -/
def State.init (s : State) : State :=
  { s with
    v := Vector.replicate 16 0, i := 0, pc := 512, sp := 0, stack := Vector.replicate 16 0, dt := 0, st := 0,
    fb := Framebuffer.clear, dirty := false, key := Vector.replicate 16 false }

/-- `create()` with the given FONT (R230, R231): memory holds FONT at 0x000..0x04F and 0 elsewhere, then `init()`. -/
def State.create (font : Vector Byte 80) : State :=
  { State.reset with mem := Memory.storeBytes [] 0 font.toList }.init

/-- `loadProgram(image)` (R233): at most 3584 bytes, verbatim from 512; a larger image is rejected whole. -/
def State.loadProgram (s : State) (image : List Byte) : State :=
  if image.length > 3584 then s.reporting (.loadTooLarge image.length)
  else { s with mem := s.mem.storeBytes 512 image }.returning .loaded

/-- `setKey(k, down)` (60_exceptions.md R215). -/
def State.setKey (s : State) (k : Key) (down : Bool) : State := { s with key := s.key.set k.val down }

/-- `clearDirty()` (R218). -/
def State.clearDirty (s : State) : State := { s with dirty := false }

/-- The boot sequence of 70_reset_and_hazards.md R234 up to the first `step()`. -/
def State.boot (image : List Byte) : State := State.reset.loadProgram image

end Sys2Proof.Machine
end

