-- ==== Sys2Proof/Machine/Cycle.lean ====
section
/-! DEFINITION. `step()` (30_encoding.md R74), the reference cycle (70_reset_and_hazards.md R240), and one operation of
the host. -/

namespace Sys2Proof.Machine

open Sys2Proof

/-- `MemRead(PC, 2)`: the opcode at PC, high byte first (20_memory.md R52). -/
def State.fetch (s : State) : Word := opcodeOf (s.mem.read s.pc.toNat) (s.mem.read (s.pc.toNat + 1))

/-- `step()` (R74): the fetch check (R81), the decode fault (R84), or the instruction. The result is `ok` unless the
instruction raises a fault or waits. -/
def blockStep (s : State) : Host.Outcome State Fault Refusal :=
  if s.pc.toNat > 4094 then raise (.fetchRange s.pc) s
  else
    match decode s.fetch with
    | none => .next (s.advance.reporting (.decodeFault s.pc s.fetch))
    | some i => exec i (s.returning .ok)

/-- One operation of the host (00_scope.md R8), atomic (20_memory.md R59). Under PER_STEP the host owes one `tick()`
after each `step()`: a second step before it and a tick that is not owed have no move (60_exceptions.md R223), and every
other operation may come in between (20_memory.md R60). -/
def perform (op : HostOp) (s : State) : Host.Outcome State Fault Refusal :=
  match op with
  | .step => if s.tickOwed then .refused .missingTick else blockStep s.stepBegun
  | .tick =>
    if s.tickOwed = false ∧ s.cadence = .perStep then .refused .extraTick
    else .next (s.tick.tickPaid.returning .nothing)
  | .init => .next (s.init.returning .nothing)
  | .loadProgram image => .next (s.loadProgram image)
  | .setKey k down => .next ((s.setKey k down).returning .nothing)
  | .readPixel px py => .next (s.returning (.pixel (s.fb.pixel px py)))
  | .readDirty => .next (s.returning (.dirty s.dirty))
  | .clearDirty => .next (s.clearDirty.returning .nothing)
  | .readDT => .next (s.returning (.timer s.dt))
  | .readST => .next (s.returning (.timer s.st))

/-- What the host calls when its schedule is empty: the reference cycle (70_reset_and_hazards.md R240), so `step()`, and
`tick()` where one is owed. -/
def State.idleOp (s : State) : HostOp := if s.tickOwed then .tick else .step

/-- The operation the host performs next, and the schedule after it (log entry 15). -/
def State.nextOp (s : State) : HostOp × State :=
  match s.schedule with
  | [] => (s.idleOp, s)
  | op :: rest => (op, { s with schedule := rest })

/-- Where a fetch from `s` reads: PC, or the reset entry point when no fetch can be made at PC. -/
def State.fetchPoint (s : State) : Word := if s.pc.toNat ≤ 4094 then s.pc else 512

/-- `op` placed where the next `step()` fetches it, and that step made the next operation. -/
def State.withOpcode (s : State) (op : Word) : State :=
  { s with
    mem := s.mem.storeBytes s.fetchPoint.toNat [highByte op, lowByte op]
    pc := s.fetchPoint
    schedule := []
    tickOwed := false }

end Sys2Proof.Machine
end

