-- ==== Sys2Proof/Machine/Step.lean ====
section
/-! DEFINITION. One transaction on the machine: the host's next operation (00_scope.md R10, 20_memory.md R59, R60). -/

namespace Sys2Proof.Machine

open Sys2Proof

/-- The host's next operation, performed. -/
def step (s : State) : Host.Outcome State Fault Refusal := perform s.nextOp.1 s.nextOp.2

/-- `s` with the table's word `w` of `nbits` bits where the next step fetches (log entry 18). -/
def State.withFetchWord (s : State) (nbits w : Nat) : State := s.withOpcode (BitVec.ofNat 16 (w % 2 ^ nbits))

end Sys2Proof.Machine
end

