-- ==== Sys2Proof/Safety.lean ====
section
/-! DEFINITION. The terms claims are stated in: which parts of the state an instruction leaves alone, what a voided
step is, the invariant of the machine, and the end of a run. -/

namespace Sys2Proof.Safety

open Sys2Proof Sys2Proof.Machine

/-! ## Frames: `t` against `s` -/

/-- Every byte of memory reads as before. -/
def SameMemory (s t : State) : Prop := ∀ a, t.mem.read a = s.mem.read a

/-- Every byte of memory outside the k bytes from `a` reads as before. -/
def SameMemoryOutside (a k : Nat) (s t : State) : Prop := ∀ b, b < a ∨ a + k ≤ b → t.mem.read b = s.mem.read b

/-- Every general register reads as before. -/
def SameRegs (s t : State) : Prop := ∀ r, t.V r = s.V r

/-- The call stack is as before: SP and all sixteen entries. -/
def SameStack (s t : State) : Prop := t.sp = s.sp ∧ t.stack = s.stack

/-- Both timers are as before. -/
def SameTimers (s t : State) : Prop := t.dt = s.dt ∧ t.st = s.st

/-- Every pixel and DIRTY are as before. -/
def SameDisplay (s t : State) : Prop := (∀ px py, t.fb.pixel px py = s.fb.pixel px py) ∧ t.dirty = s.dirty

/-- The input latch is as before. -/
def SameKeys (s t : State) : Prop := ∀ k, t.keyDown k = s.keyDown k

/-- The model's own fields but the random draws are as before; so no fault is reported. -/
def SameEnvironment (s t : State) : Prop :=
  t.cadence = s.cadence ∧ t.tickOwed = s.tickOwed ∧ t.schedule = s.schedule ∧ t.result = s.result ∧
    t.faults = s.faults

/-- The eleven elements of 10_state.md R20 are as before: nothing the spec calls state has changed. -/
def SameBlock (s t : State) : Prop :=
  t.mem = s.mem ∧ t.v = s.v ∧ t.i = s.i ∧ t.pc = s.pc ∧ t.sp = s.sp ∧ t.stack = s.stack ∧ t.dt = s.dt ∧
    t.st = s.st ∧ t.fb = s.fb ∧ t.dirty = s.dirty ∧ t.key = s.key

/-- Everything but the general registers and PC is as before (for an instruction that writes registers only). -/
def OnlyRegsAndPC (s t : State) : Prop :=
  SameMemory s t ∧ t.i = s.i ∧ SameStack s t ∧ SameTimers s t ∧ SameDisplay s t ∧ SameKeys s t ∧
    SameEnvironment s t ∧ t.draws = s.draws

/-- Everything but PC is as before (for a jump or a skip). -/
def OnlyPC (s t : State) : Prop := SameRegs s t ∧ OnlyRegsAndPC s t

/-! ## What an instruction names -/

/-- The general registers an instruction may write (10_state.md R22, R23): its destinations, and VF for the
flag-writing ones. -/
def WritesReg : Instr → Reg → Prop
  | .op6XNN x _, r | .op7XNN x _, r | .opCXNN x _, r => r = x
  | .op8XY0 x _, r | .op8XY1 x _, r | .op8XY2 x _, r | .op8XY3 x _, r => r = x
  | .op8XY4 x _, r | .op8XY5 x _, r | .op8XY6 x _, r | .op8XY7 x _, r | .op8XYE x _, r => r = x ∨ r = VF
  | .opDXYN _ _ _, r | .opFX1E _, r => r = VF
  | .opFX07 x, r | .opFX0A x, r => r = x
  | .opFX65 x, r => r ≤ x
  | _, _ => False

/-- A set bit of the n-row sprite at I, drawn at (V[x], V[y]) with wrap-around, lands on the pixel (40_display.md
R101, R102). -/
def SpriteCovers (s : State) (x y : Reg) (n : Nat) (px : Fin 64) (py : Fin 32) : Prop :=
  ∃ row < n, ∃ column < 8, (s.mem.read (s.i.toNat + row)).getLsbD (7 - column) = true ∧
    px.val = ((s.V x).toNat + column) % 64 ∧ py.val = ((s.V y).toNat + row) % 32

/-- In the opcode fetched at `u` the bytes at a, a + 1, … are `bytes`, and the others are those of `s` (20_memory.md
R63): either half of the opcode may lie on them. -/
def FetchReads (s u : State) (a : Nat) (bytes : List Byte) : Prop :=
  (∀ k, ∀ h : k < bytes.length,
    (u.pc.toNat = a + k → highByte u.fetch = bytes[k]) ∧ (u.pc.toNat + 1 = a + k → lowByte u.fetch = bytes[k])) ∧
  (u.pc.toNat < a ∨ a + bytes.length ≤ u.pc.toNat → highByte u.fetch = s.mem.read u.pc.toNat) ∧
  (u.pc.toNat + 1 < a ∨ a + bytes.length ≤ u.pc.toNat + 1 → lowByte u.fetch = s.mem.read (u.pc.toNat + 1))

/-! ## The tick after a step -/

/-- The tick that follows a step which left `t`, under PER_STEP: whenever the host calls it, and next if nothing is
scheduled, each timer above 0 loses 1 and nothing else changes (60_exceptions.md R212, R213). -/
def TickFollows (t : State) : Prop :=
  t.cadence = .perStep → t.tickOwed = true ∧
    ∃ u, perform .tick t = .next u ∧ (t.schedule = [] → step t = .next u) ∧ u.dt.toNat = t.dt.toNat - 1 ∧
      u.st.toNat = t.st.toNat - 1 ∧ SameBlock { t with dt := u.dt, st := u.st } u ∧ u.faults = t.faults ∧
      u.tickOwed = false

/-! ## Faults -/

/-- The table of 60_exceptions.md R201 with the records of R203: the fault an instruction raises in a state. -/
def faultOf (i : Instr) (s : State) : Option Fault :=
  match i with
  | .op00EE => if s.sp.val = 0 then some (.stackUnderflow s.pc (encode i)) else none
  | .op2NNN _ => if s.sp.val = 16 then some (.stackOverflow s.pc (encode i)) else none
  | .opDXYN _ _ n =>
    if n > 0 ∧ s.i.toNat + n - 1 > 4095 then some (.memoryRange s.pc (encode i) (s.i.toNat + n - 1)) else none
  | .opFX33 _ => if s.i.toNat + 2 > 4095 then some (.memoryRange s.pc (encode i) (s.i.toNat + 2)) else none
  | .opFX55 x | .opFX65 x =>
    if s.i.toNat + x.val > 4095 then some (.memoryRange s.pc (encode i) (s.i.toNat + x.val)) else none
  | .opEX9E x | .opEXA1 x => if (s.V x).toNat > 15 then some (.keyRange s.pc (encode i) (s.V x)) else none
  | _ => none

/-- No fault has been reported (92_eei_decisions.md D5, D6: the premise of a claim about a run). -/
def FaultFree (s : State) : Prop := s.faults = []

/-! ## The invariant -/

/-- What every operation keeps: memory is in canonical form, PC is where a fetched instruction can have put it, the
stack holds addresses a fetch succeeded at (10_state.md R25, R34), and a tick is owed under PER_STEP only. -/
def Invariant (s : State) : Prop :=
  s.mem.wf = true ∧ s.pc.toNat ≤ 0x10FE ∧ (∀ j : Fin 16, s.stack[j.val].toNat ≤ 4094) ∧
    (s.cadence = .host → s.tickOwed = false)

/-! ## The end of a run (70_reset_and_hazards.md R246) -/

/-- The machine is at a jump to its own address. -/
def AtSelfJump (s : State) : Prop := s.pc.toNat ≤ 4094 ∧ ∃ nnn : Addr12, decode s.fetch = some (.op1NNN nnn) ∧ zextAddr nnn = s.pc

/-- The last operation was a step that returned a fault other than DecodeFault. -/
def StoppedByFault (s : State) : Prop := ∃ f, s.result = .fault f ∧ f.endsRun = true

/-- A claim's run ends here. It does not say that the host has stopped calling, nor that the timers have stopped. -/
def Ended (s : State) : Prop := AtSelfJump s ∨ StoppedByFault s

end Sys2Proof.Safety
end

