-- ==== Sys2Proof/Certificates/Slice0/Obligations.lean ====
section
/-! DEFINITION. The statements for the provers, by the files of spec/. -/

open Sys2Proof Sys2Proof.Machine Sys2Proof.Safety

/-! ## Encoding (30_encoding.md) -/

/-- Words of every family 0 to F, written out from 30_encoding.md R71, R73, decode to their instructions; six words of
R77 to R80 decode to none (0x0000, 0x01E0 and 0x5121 by decision D27, log entry 20). -/
def Obligations.SampleWordsDecode : Prop :=
  decode 0x00E0#16 = some .op00E0 ∧ decode 0x00EE#16 = some .op00EE ∧ decode 0x1226#16 = some (.op1NNN 0x226#12) ∧
  decode 0x2220#16 = some (.op2NNN 0x220#12) ∧ decode 0x300F#16 = some (.op3XNN 0 0x0F#8) ∧
  decode 0x4311#16 = some (.op4XNN 3 0x11#8) ∧ decode 0x5120#16 = some (.op5XY0 1 2) ∧
  decode 0x6A7B#16 = some (.op6XNN 10 0x7B#8) ∧ decode 0x7215#16 = some (.op7XNN 2 0x15#8) ∧
  decode 0x81F6#16 = some (.op8XY6 1 15) ∧ decode 0x8127#16 = some (.op8XY7 1 2) ∧
  decode 0x9120#16 = some (.op9XY0 1 2) ∧ decode 0xA20C#16 = some (.opANNN 0x20C#12) ∧
  decode 0xBFFF#16 = some (.opBNNN 0xFFF#12) ∧ decode 0xC30F#16 = some (.opCXNN 3 0x0F#8) ∧
  decode 0xD012#16 = some (.opDXYN 0 1 2) ∧ decode 0xE59E#16 = some (.opEX9E 5) ∧
  decode 0xF30A#16 = some (.opFX0A 3) ∧ decode 0xFA33#16 = some (.opFX33 10) ∧
  decode 0x0000#16 = none ∧ decode 0x01E0#16 = none ∧ decode 0x5121#16 = none ∧ decode 0x800F#16 = none ∧
  decode 0xE000#16 = none ∧ decode 0xF0FF#16 = none

/-- Decoding an encoded well-formed instruction gives it back, from a word and from bytes. -/
def Obligations.DecodeEncodeRoundTrip : Prop :=
  ∀ i : Instr, i.wf = true →
    decode (encode i) = some i ∧ ∀ rest : List Byte, decodeBytes (encodeBytes i ++ rest) = .ok (i, rest)

/-- A word that decodes is the opcode of the instruction it decodes to: no bit is dropped and none is invented. -/
def Obligations.DecodedWordIsItsEncoding : Prop :=
  ∀ (op : Word) (i : Instr), decode op = some i → i.wf = true ∧ encode i = op

/-- R75: a word decodes to an instruction of a row exactly when it matches the row's pattern, fixed digits included;
every word yields one instruction or none; no word matches two patterns. -/
def Obligations.DecodeMatchesTheTable : Prop :=
  ∀ op : Word,
    (∀ row ∈ opcodeTable, (∃ i, decode op = some i ∧ i.row = row) ↔ op &&& row.mask = row.pattern) ∧
    (decode op = none ↔ ∀ row ∈ opcodeTable, op &&& row.mask ≠ row.pattern) ∧
    (∀ row ∈ opcodeTable, ∀ row' ∈ opcodeTable,
      op &&& row.mask = row.pattern → op &&& row'.mask = row'.pattern → row = row')

/-- The words that decode to nothing are the six classes of R83. -/
def Obligations.UndecodedWords : Prop :=
  ∀ op : Word, decode op = none ↔
    (op.toNat < 0x1000 ∧ op ≠ 0x00E0#16 ∧ op ≠ 0x00EE#16) ∨
    (op.toNat / 4096 = 5 ∧ op.toNat % 16 ≠ 0) ∨
    (op.toNat / 4096 = 8 ∧ op.toNat % 16 ∈ [0x8, 0x9, 0xA, 0xB, 0xC, 0xD, 0xF]) ∨
    (op.toNat / 4096 = 9 ∧ op.toNat % 16 ≠ 0) ∨
    (op.toNat / 4096 = 14 ∧ op.toNat % 256 ∉ [0x9E, 0xA1]) ∨
    (op.toNat / 4096 = 15 ∧ op.toNat % 256 ∉ [0x07, 0x0A, 0x15, 0x18, 0x1E, 0x29, 0x33, 0x55, 0x65])

/-- The y field of 8XY6 and 8XYE is encoded and ignored (R82): any y selects the same effect. -/
def Obligations.ShiftsIgnoreY : Prop :=
  ∀ (s : State) (x y y' : Reg),
    exec (.op8XY6 x y) s = exec (.op8XY6 x y') s ∧ exec (.op8XYE x y) s = exec (.op8XYE x y') s

/-! ## The step (30_encoding.md R74, 60_exceptions.md, 70_reset_and_hazards.md) -/

/-- When no tick is owed and the two bytes at PC, high byte first, decode to an instruction, the host's step is `exec` of
it at the same state with the result preset to `ok` (the instruction overrides it) and, under PER_STEP, its tick owed;
with a schedule the step is taken off it (log entries 2, 14, 15). -/
def Obligations.StepRunsTheDecodedInstruction : Prop :=
  ∀ (s : State) (i : Instr), s.tickOwed = false → s.pc.toNat ≤ 4094 →
    decode (s.mem.read s.pc.toNat ++ s.mem.read (s.pc.toNat + 1)) = some i →
      (s.schedule = [] →
        step s = exec i { s with result := .ok, tickOwed := match s.cadence with | .perStep => true | .host => false }) ∧
      ∀ rest, step { s with schedule := .step :: rest } =
        exec i { s with
          result := .ok, schedule := rest, tickOwed := match s.cadence with | .perStep => true | .host => false }

/-- A step at a word that decodes to nothing (R202): PC advances by 2, nothing else of the block changes, the record with
its code (R201, decision D6) is returned and logged (log entries 1, 2), the machine goes on, and under PER_STEP the
tick follows (R213, decision D2, log entry 14). -/
def Obligations.DecodeFaultAdvancesPC : Prop :=
  ∀ s : State, s.nextOp.1 = .step → s.tickOwed = false → s.pc.toNat ≤ 4094 → decode s.fetch = none →
    ∃ t, step s = .next t ∧ t.pc = s.pc + 2 ∧ SameBlock { s with pc := t.pc } t ∧
      t.result = .fault (.decodeFault s.pc s.fetch) ∧ t.faults = .decodeFault s.pc s.fetch :: s.faults ∧
      (Fault.decodeFault s.pc s.fetch).code = 1 ∧ t.cadence = s.cadence ∧ t.schedule = s.schedule.tail ∧
      t.draws = s.draws ∧ TickFollows t

/-- A step at PC > 4094 changes nothing of the block, returns FetchRange with the PC (decision D7, log entry 9), and under
PER_STEP the tick follows (R213, decision D2, log entry 14). -/
def Obligations.FetchRangeFaultIsVoid : Prop :=
  ∀ s : State, s.nextOp.1 = .step → s.tickOwed = false → s.pc.toNat > 4094 →
    ∃ t, step s = .next t ∧ SameBlock s t ∧ t.result = .fault (.fetchRange s.pc) ∧
      t.faults = .fetchRange s.pc :: s.faults ∧ (Fault.fetchRange s.pc).code = 5 ∧
      t.cadence = s.cadence ∧ t.schedule = s.schedule.tail ∧ t.draws = s.draws ∧ TickFollows t

/-- Each instruction faults exactly under its condition of R201, with the record of R203, in a step that is void but
for the report (R205; decisions D5, D10, D14); otherwise it reports nothing, and only FX0A may answer `waiting`. -/
def Obligations.FaultsExactlyAsTabled : Prop :=
  ∀ (i : Instr) (s : State),
    match faultOf i s with
    | some f => ∃ t, exec i s = .next t ∧ SameBlock s t ∧ t.result = .fault f ∧ t.faults = f :: s.faults ∧
        t.cadence = s.cadence ∧ t.tickOwed = s.tickOwed ∧ t.schedule = s.schedule ∧ t.draws = s.draws
    | none => ∃ t, exec i s = .next t ∧ t.faults = s.faults ∧
        (t.result = s.result ∨ t.result = .waiting ∧ ∃ x, i = .opFX0A x)

/-- No operation stops the machine: it answers a next state, or is one that R223 gives no move, a second step before the
owed tick or a tick that is not owed, and those only where the schedule says so (log entry 17). -/
def Obligations.EveryOperationAnswers : Prop :=
  ∀ s : State, (∃ t, step s = .next t) ∨
    (step s = .refused .missingTick ∧ s.tickOwed = true ∧ ∃ rest, s.schedule = .step :: rest) ∨
    (step s = .refused .extraTick ∧ s.tickOwed = false ∧ s.cadence = .perStep ∧ ∃ rest, s.schedule = .tick :: rest)

/-- A step that returns a fault other than DecodeFault changes nothing of the block, and in every state that differs from
it in the timers alone the next step returns the same fault and again changes nothing (R205, R210; decision D5, log
entry 8). -/
def Obligations.VoidFaultRepeats : Prop :=
  ∀ (s t : State) (f : Fault), s.nextOp.1 = .step → step s = .next t → t.result = .fault f → f.code ≠ 1 →
    SameBlock s t ∧
    ∀ u : State, SameBlock { t with dt := u.dt, st := u.st } u → u.tickOwed = false →
      ∃ w, perform .step u = .next w ∧ w.result = .fault f ∧ w.faults = f :: u.faults ∧ SameBlock u w

/-- Every operation keeps the invariant: memory canonical, PC at most 0x10FE (R25), stack entries at most 4094 (R34), a
tick owed under PER_STEP only (log entry 14). -/
def Obligations.StepKeepsInv : Prop := ∀ s t : State, Invariant s → step s = .next t → Invariant t

/-- The invariant holds of the machine just created. -/
def Obligations.InvAtReset : Prop := Invariant State.reset

/-- No operation clears the fault log, and one operation reports at most one fault (R207, decision D6). -/
def Obligations.FaultLogOnlyGrows : Prop :=
  ∀ s t : State, step s = .next t →
    t.faults = s.faults ∨ ∃ f, t.result = .fault f ∧ t.faults = f :: s.faults

/-- The head of the schedule is the operation performed, on the state whose schedule is the rest; with nothing scheduled
it is `step()`, or `tick()` where one is owed; the rest of the schedule and the cadence stay (decision D15, log entry
15). -/
def Obligations.OperationsRunInOrder : Prop :=
  ∀ s : State,
    (∀ op rest, s.schedule = op :: rest → step s = perform op { s with schedule := rest }) ∧
    (s.schedule = [] → step s = perform (if s.tickOwed = true then .tick else .step) s) ∧
    ∀ t, step s = .next t → t.schedule = s.schedule.tail ∧ t.cadence = s.cadence

/-- Under PER_STEP every step, whatever its result, owes one tick, which follows it (R213, R240); until then a second
step has no move, and after it a second tick has none (R223); every other operation may come between and leaves the
owed tick owed (R60). Decisions D2, D15; log entries 14, 15, 17. -/
def Obligations.StepsAndTicksAlternate : Prop :=
  ∀ s t : State, s.cadence = .perStep → step s = .next t →
    (s.nextOp.1 = .step → s.tickOwed = false ∧ TickFollows t ∧ perform .step t = .refused .missingTick) ∧
    (s.nextOp.1 = .tick → s.tickOwed = true ∧ t.tickOwed = false ∧ perform .tick t = .refused .extraTick) ∧
    (s.nextOp.1 ≠ .step → s.nextOp.1 ≠ .tick → t.tickOwed = s.tickOwed)

/-- At a jump to its own address a step changes nothing of the block, returns `ok` and stays there; so does the machine
when a tick changes the timers (R246). -/
def Obligations.SelfJumpRepeats : Prop :=
  ∀ s : State, s.nextOp.1 = .step → s.tickOwed = false → AtSelfJump s →
    ∃ t, step s = .next t ∧ SameBlock s t ∧ t.result = .ok ∧ t.faults = s.faults ∧ AtSelfJump t ∧
      ∀ u, perform .tick t = .next u → SameBlock { t with dt := u.dt, st := u.st } u ∧ AtSelfJump u

/-- A run is stopped by a fault exactly after a step that returns one of the faults of R201 other than DecodeFault; a
decode fault, a rejected image and a wait stop none (R246, decision D30, log entry 29). -/
def Obligations.RunsEndAtFaultsOfSteps : Prop :=
  ∀ s t : State, step s = .next t →
    (StoppedByFault t ↔ s.nextOp.1 = .step ∧
      (s.pc.toNat > 4094 ∨ ∃ i, s.pc.toNat ≤ 4094 ∧ decode s.fetch = some i ∧ (faultOf i s).isSome = true))

/-! ## Reset and the host's operations -/

/-- The state after `create()` (10_state.md R37, 70_reset_and_hazards.md R230). Registers, PC, SP and pixels are the
source's values; STACK, DT, ST, DIRTY and KEY are decision D13 (log entry 5), memory decision D12 with the default FONT
(log entries 3, 4). -/
def Obligations.ResetValues : Prop :=
  let s := State.reset
  s.pc = 512 ∧ (∀ r, s.V r = 0) ∧ s.i = 0 ∧ s.sp.val = 0 ∧ (∀ j : Fin 16, s.stack[j.val] = 0) ∧ s.dt = 0 ∧ s.st = 0 ∧
    (∀ px py, s.fb.pixel px py = false) ∧ s.dirty = false ∧ (∀ k, s.keyDown k = false) ∧
    (∀ a, 80 ≤ a → s.mem.read a = 0) ∧ s.mem.loadBytes 0 80 = defaultFont ∧ FaultFree s

/-- `create()` with any FONT holds that font at 0x000..0x04F, 0 elsewhere, memory canonical, and the reset values (D12). -/
def Obligations.CreateHoldsTheFont : Prop :=
  ∀ font : Vector Byte 80,
    (∀ a : Fin 80, (State.create font).mem.read a.val = font[a.val]) ∧
    (∀ a, 80 ≤ a → (State.create font).mem.read a = 0) ∧
    { State.create font with mem := State.reset.mem } = State.reset ∧ Invariant (State.create font)

/-- `init()` gives every element but memory its reset value and leaves memory unchanged (R232; decisions D12, D13). -/
def Obligations.InitKeepsMemory : Prop :=
  ∀ s : State, ∃ t, perform .init s = .next t ∧ SameMemory s t ∧ SameBlock { State.reset with mem := s.mem } t ∧
    t.faults = s.faults

/-- `loadProgram` copies an image of at most 3584 bytes to 512 and touches nothing else; a larger one is rejected whole
with LoadTooLarge (R233, decision D16). -/
def Obligations.LoadProgramCopiesOrRejects : Prop :=
  ∀ (s : State) (image : List Byte),
    (image.length ≤ 3584 → ∃ t, perform (.loadProgram image) s = .next t ∧
      (∀ k, ∀ h : k < image.length, t.mem.read (512 + k) = image[k]) ∧ SameMemoryOutside 512 image.length s t ∧
      SameBlock { s with mem := t.mem } t ∧ t.result = .loaded ∧ t.faults = s.faults) ∧
    (image.length > 3584 → ∃ t, perform (.loadProgram image) s = .next t ∧ SameBlock s t ∧
      t.result = .fault (.loadTooLarge image.length) ∧ t.faults = .loadTooLarge image.length :: s.faults)

/-- From the boot sequence (R234; `State.boot`, log entry 18) the first step runs the image's first word, the result
preset and the tick owed as in every step (log entries 2, 14, 15). -/
def Obligations.BootRunsTheFirstWord : Prop :=
  ∀ (image : List Byte) (hi lo : Byte) (rest : List Byte) (i : Instr),
    image = hi :: lo :: rest → image.length ≤ 3584 → decode (hi ++ lo) = some i →
      step (State.boot image) = exec i { State.boot image with result := .ok, tickOwed := true } ∧
      (State.boot image).pc = 512 ∧ (State.boot image).result = .loaded

/-- R212: `tick()` takes 1 from each timer above 0, leaves a timer at 0 at 0, touches nothing else, never faults, and
does not look at the last step's result. As an operation it goes on under HOST, and under PER_STEP where it is owed
(R213, decision D2; log entries 2, 14). -/
def Obligations.TickCountsDown : Prop :=
  ∀ s : State,
    (s.tick.dt.toNat = if s.dt.toNat > 0 then s.dt.toNat - 1 else 0) ∧
    (s.tick.st.toNat = if s.st.toNat > 0 then s.st.toNat - 1 else 0) ∧
    SameBlock { s with dt := s.tick.dt, st := s.tick.st } s.tick ∧ SameEnvironment s s.tick ∧ s.tick.draws = s.draws ∧
    (∀ r, (s.returning r).tick = s.tick.returning r) ∧
    (s.cadence = .host ∨ s.tickOwed = true →
      perform .tick s = .next { s.tick with result := .nothing, tickOwed := false })

/-- The latch and the readouts (60_exceptions.md R215 to R218; decisions D15, D28, D29): `setKey` writes one key,
`clearDirty` clears DIRTY, and the reads return the value and change nothing. Each goes on in every state, between a
step and its tick too, where the timers still read as the step left them (20_memory.md R60). -/
def Obligations.HostReadsAndWrites : Prop :=
  ∀ (s : State) (k : Key) (down : Bool) (px : Fin 64) (py : Fin 32),
    (∃ t, perform (.setKey k down) s = .next t ∧ (∀ j, t.keyDown j = if j = k then down else s.keyDown j) ∧
      SameBlock { s with key := t.key } t ∧ t.tickOwed = s.tickOwed) ∧
    (∃ t, perform .clearDirty s = .next t ∧ t.dirty = false ∧ SameBlock { s with dirty := false } t ∧ t.tickOwed = s.tickOwed) ∧
    (∃ t, perform (.readPixel px py) s = .next t ∧ t.result = .pixel (s.fb.pixel px py) ∧ SameBlock s t ∧ t.tickOwed = s.tickOwed) ∧
    (∃ t, perform .readDirty s = .next t ∧ t.result = .dirty s.dirty ∧ SameBlock s t ∧ t.tickOwed = s.tickOwed) ∧
    (∃ t, perform .readDT s = .next t ∧ t.result = .timer s.dt ∧ SameBlock s t ∧ t.tickOwed = s.tickOwed) ∧
    (∃ t, perform .readST s = .next t ∧ t.result = .timer s.st ∧ SameBlock s t ∧ t.tickOwed = s.tickOwed)

/-- Under the reference cycle (step, then tick) the tick of FX15's and FX18's own cycle decrements the value just written
(R241, R240; log entry 14). -/
def Obligations.ReferenceCycleTicksTheNewValue : Prop :=
  ∀ (s : State) (x : Reg), s.schedule = [] → s.tickOwed = false → s.cadence = .perStep → s.pc.toNat ≤ 4094 →
    (decode s.fetch = some (.opFX15 x) → ∃ t u, step s = .next t ∧ step t = .next u ∧ t.dt = s.V x ∧ t.st = s.st ∧
      u.dt.toNat = (s.V x).toNat - 1 ∧ u.st.toNat = s.st.toNat - 1 ∧ u.pc = s.pc + 2) ∧
    (decode s.fetch = some (.opFX18 x) → ∃ t u, step s = .next t ∧ step t = .next u ∧ t.st = s.V x ∧ t.dt = s.dt ∧
      u.st.toNat = (s.V x).toNat - 1 ∧ u.dt.toNat = s.dt.toNat - 1 ∧ u.pc = s.pc + 2)

/-- DT never increases except by an FX15 that the step executes (R241). -/
def Obligations.DelayTimerRisesOnlyByFX15 : Prop :=
  ∀ s t : State, step s = .next t → s.dt.toNat < t.dt.toNat →
    ∃ x, s.nextOp.1 = .step ∧ s.pc.toNat ≤ 4094 ∧ decode s.fetch = some (.opFX15 x)

/-! ## Display (40_display.md) -/

/-- R100: the word 0x00E0 and no other is 00E0; it clears every pixel, sets DIRTY always, advances PC by 2, and leaves
everything else alone. -/
def Obligations.ClearScreen : Prop :=
  (∀ op : Word, decode op = some .op00E0 ↔ op = 0x00E0#16) ∧
  ∀ s : State, ∃ t, exec .op00E0 s = .next t ∧ (∀ px py, t.fb.pixel px py = false) ∧ t.dirty = true ∧
    t.pc = s.pc + 2 ∧ SameRegs s t ∧ SameMemory s t ∧ t.i = s.i ∧ SameStack s t ∧ SameTimers s t ∧ SameKeys s t ∧
    SameEnvironment s t ∧ t.draws = s.draws

/-- DXYN in closed form (R101, R102, R103): each pixel is XORed with whether a set sprite bit lands on it; VF is 1 if
such a bit landed on a pixel that was 1, else 0 (the 0 is decision D4, log entry 7); DIRTY is set, n = 0 included; I and
memory are unchanged. When the rows do not lie in memory nothing changes but the report (D14). -/
def Obligations.DrawSpriteClosedForm : Prop :=
  ∀ (s : State) (x y : Reg) (n : Nat), (Instr.opDXYN x y n).wf = true →
    (n = 0 ∨ s.i.toNat + n - 1 ≤ 4095 → ∃ t, exec (.opDXYN x y n) s = .next t ∧
      (∀ px py, t.fb.pixel px py = true ↔ Xor (s.fb.pixel px py = true) (SpriteCovers s x y n px py)) ∧
      ((∃ px py, SpriteCovers s x y n px py ∧ s.fb.pixel px py = true) → t.V VF = 1) ∧
      ((¬∃ px py, SpriteCovers s x y n px py ∧ s.fb.pixel px py = true) → t.V VF = 0) ∧
      (∀ r, r ≠ VF → t.V r = s.V r) ∧ t.dirty = true ∧ t.pc = s.pc + 2 ∧ t.i = s.i ∧ SameMemory s t ∧
      SameStack s t ∧ SameTimers s t ∧ SameKeys s t ∧ SameEnvironment s t ∧ t.draws = s.draws) ∧
    (n > 0 ∧ s.i.toNat + n - 1 > 4095 →
      exec (.opDXYN x y n) s = .next (s.reporting (.memoryRange s.pc (encode (.opDXYN x y n)) (s.i.toNat + n - 1))))

/-- Drawing the same sprite at the same place twice restores the framebuffer; the second draw collides exactly when a
set bit landed on a pixel that was 0 before the first (from R101; log entry 23). The place is the same when the first
draw's VF did not move it (x or y may be 15). -/
def Obligations.DrawTwiceRestores : Prop :=
  ∀ (s t : State) (x y : Reg) (n : Nat), (Instr.opDXYN x y n).wf = true → n = 0 ∨ s.i.toNat + n - 1 ≤ 4095 →
    exec (.opDXYN x y n) s = .next t → t.V x = s.V x → t.V y = s.V y →
    ∃ u, exec (.opDXYN x y n) t = .next u ∧ (∀ px py, u.fb.pixel px py = s.fb.pixel px py) ∧
      (u.V VF = 1 ↔ ∃ px py, SpriteCovers s x y n px py ∧ s.fb.pixel px py = false)

/-- R104's own words, "the second sets VF = 1 whenever the sprite has at least one set bit", for every framebuffer.
EXPECTED TO FAIL: where the sprite's bits all land on pixels that were 1, the first draw clears them and the second
collides with nothing (log entry 23). -/
def Obligations.SecondDrawAlwaysCollides : Prop :=
  ∀ (s t u : State) (x y : Reg) (n : Nat), (Instr.opDXYN x y n).wf = true → n = 0 ∨ s.i.toNat + n - 1 ≤ 4095 →
    exec (.opDXYN x y n) s = .next t → t.V x = s.V x → t.V y = s.V y →
    (∃ px py, SpriteCovers s x y n px py) → exec (.opDXYN x y n) t = .next u → u.V VF = 1

/-! ## Control transfer (41_control_flow.md) -/

/-- 00EE resumes 2 past the top entry, takes it off and keeps the array as it is (R110); at SP = 0 it faults and
nothing else changes (decision D5). -/
def Obligations.ReturnPopsTheStack : Prop :=
  ∀ s : State,
    (∀ h : 0 < s.sp.val, ∃ t, exec .op00EE s = .next t ∧ t.sp.val = s.sp.val - 1 ∧
      t.pc = s.stack[s.sp.val - 1]'(by have := s.sp.isLt; omega) + 2 ∧ t.stack = s.stack ∧ SameRegs s t ∧
      SameMemory s t ∧ t.i = s.i ∧ SameTimers s t ∧ SameDisplay s t ∧ SameKeys s t ∧ SameEnvironment s t ∧
      t.draws = s.draws) ∧
    (s.sp.val = 0 → exec .op00EE s = .next (s.reporting (.stackUnderflow s.pc 0x00EE#16)))

/-- 2NNN stores its own address in STACK[SP], raises SP by 1 and jumps (R112); the other entries keep their values; at
SP = 16 it faults and nothing else changes (decision D5). -/
def Obligations.CallPushesItsAddress : Prop :=
  ∀ (s : State) (nnn : Addr12),
    (s.sp.val < 16 → ∃ t, exec (.op2NNN nnn) s = .next t ∧ t.sp.val = s.sp.val + 1 ∧ t.pc.toNat = nnn.toNat ∧
      (∀ j : Fin 16, t.stack[j.val] = if j.val = s.sp.val then s.pc else s.stack[j.val]) ∧ SameRegs s t ∧
      SameMemory s t ∧ t.i = s.i ∧ SameTimers s t ∧ SameDisplay s t ∧ SameKeys s t ∧ SameEnvironment s t ∧
      t.draws = s.draws) ∧
    (s.sp.val = 16 → exec (.op2NNN nnn) s = .next (s.reporting (.stackOverflow s.pc (encode (.op2NNN nnn)))))

/-- R119: 2NNN pushes its own address, and 00EE adds 2 when it restores it, so control resumes after the call. -/
def Obligations.CallThenReturnResumes : Prop :=
  ∀ (s t : State) (nnn : Addr12), ∀ h : s.sp.val < 16, exec (.op2NNN nnn) s = .next t →
    t.stack[s.sp.val] = s.pc ∧
    ∃ u, exec .op00EE t = .next u ∧ u.pc = s.pc + 2 ∧ u.sp = s.sp ∧
      SameBlock { s with pc := s.pc + 2, stack := t.stack } u

/-- 1NNN and BNNN jump to nnn and to nnn + V[0], unmasked, and change nothing else (R111, R117; the missing mask is
decision D8, log entry 10). -/
def Obligations.JumpTargets : Prop :=
  ∀ (s : State) (nnn : Addr12),
    (∃ t, exec (.op1NNN nnn) s = .next t ∧ t.pc.toNat = nnn.toNat ∧ OnlyPC s t) ∧
    (∃ t, exec (.opBNNN nnn) s = .next t ∧ t.pc.toNat = nnn.toNat + (s.V 0).toNat ∧ OnlyPC s t)

/-- R113 to R116: the encodings of the four skips, the condition of each, PC + 4 or PC + 2, and nothing else changed. -/
def Obligations.SkipsCompareRegisters : Prop :=
  (∀ (op : Word) (x y : Reg) (nn : Byte),
    (decode op = some (.op3XNN x nn) ↔ op &&& 0xF000#16 = 0x3000#16 ∧ fieldX op = x ∧ fieldNN op = nn) ∧
    (decode op = some (.op4XNN x nn) ↔ op &&& 0xF000#16 = 0x4000#16 ∧ fieldX op = x ∧ fieldNN op = nn) ∧
    (decode op = some (.op5XY0 x y) ↔ op &&& 0xF00F#16 = 0x5000#16 ∧ fieldX op = x ∧ fieldY op = y) ∧
    (decode op = some (.op9XY0 x y) ↔ op &&& 0xF00F#16 = 0x9000#16 ∧ fieldX op = x ∧ fieldY op = y) ∧
    (op.toNat / 4096 = 5 ∨ op.toNat / 4096 = 9 → op.toNat % 16 ≠ 0 → decode op = none)) ∧
  ∀ (s : State) (x y : Reg) (nn : Byte),
    (∃ t, exec (.op3XNN x nn) s = .next t ∧ (t.pc = if s.V x = nn then s.pc + 4 else s.pc + 2) ∧ OnlyPC s t) ∧
    (∃ t, exec (.op4XNN x nn) s = .next t ∧ (t.pc = if s.V x = nn then s.pc + 2 else s.pc + 4) ∧ OnlyPC s t) ∧
    (∃ t, exec (.op5XY0 x y) s = .next t ∧ (t.pc = if s.V x = s.V y then s.pc + 4 else s.pc + 2) ∧ OnlyPC s t) ∧
    (∃ t, exec (.op9XY0 x y) s = .next t ∧ (t.pc = if s.V x = s.V y then s.pc + 2 else s.pc + 4) ∧ OnlyPC s t)

/-! ## Registers and arithmetic (42_registers_alu.md) -/

/-- R130 to R135: the encodings and results of the loads, the immediate addition with byte wraparound and the bitwise
operations; every other register, VF among them, keeps its value, and nothing else changes but PC. -/
def Obligations.LoadsAndBitwise : Prop :=
  (∀ (op : Word) (x y : Reg) (nn : Byte),
    (decode op = some (.op6XNN x nn) ↔ op &&& 0xF000#16 = 0x6000#16 ∧ fieldX op = x ∧ fieldNN op = nn) ∧
    (decode op = some (.op7XNN x nn) ↔ op &&& 0xF000#16 = 0x7000#16 ∧ fieldX op = x ∧ fieldNN op = nn) ∧
    (decode op = some (.op8XY0 x y) ↔ op &&& 0xF00F#16 = 0x8000#16 ∧ fieldX op = x ∧ fieldY op = y) ∧
    (decode op = some (.op8XY1 x y) ↔ op &&& 0xF00F#16 = 0x8001#16 ∧ fieldX op = x ∧ fieldY op = y) ∧
    (decode op = some (.op8XY2 x y) ↔ op &&& 0xF00F#16 = 0x8002#16 ∧ fieldX op = x ∧ fieldY op = y) ∧
    (decode op = some (.op8XY3 x y) ↔ op &&& 0xF00F#16 = 0x8003#16 ∧ fieldX op = x ∧ fieldY op = y)) ∧
  ∀ (s : State) (x y : Reg) (nn : Byte),
    (∃ t, exec (.op6XNN x nn) s = .next t ∧ t.V x = nn ∧
      (∀ r, r ≠ x → t.V r = s.V r) ∧ t.pc = s.pc + 2 ∧ OnlyRegsAndPC s t) ∧
    (∃ t, exec (.op7XNN x nn) s = .next t ∧ (t.V x).toNat = ((s.V x).toNat + nn.toNat) % 256 ∧
      (∀ r, r ≠ x → t.V r = s.V r) ∧ t.pc = s.pc + 2 ∧ OnlyRegsAndPC s t) ∧
    (∃ t, exec (.op8XY0 x y) s = .next t ∧ t.V x = s.V y ∧
      (∀ r, r ≠ x → t.V r = s.V r) ∧ t.pc = s.pc + 2 ∧ OnlyRegsAndPC s t) ∧
    (∃ t, exec (.op8XY1 x y) s = .next t ∧ t.V x = s.V x ||| s.V y ∧
      (∀ r, r ≠ x → t.V r = s.V r) ∧ t.pc = s.pc + 2 ∧ OnlyRegsAndPC s t) ∧
    (∃ t, exec (.op8XY2 x y) s = .next t ∧ t.V x = s.V x &&& s.V y ∧
      (∀ r, r ≠ x → t.V r = s.V r) ∧ t.pc = s.pc + 2 ∧ OnlyRegsAndPC s t) ∧
    (∃ t, exec (.op8XY3 x y) s = .next t ∧ t.V x = s.V x ^^^ s.V y ∧
      (∀ r, r ≠ x → t.V r = s.V r) ∧ t.pc = s.pc + 2 ∧ OnlyRegsAndPC s t)

/-- 8XY4 (R136): f is the carry of the old values and is written to VF first; the sum then reads f for an operand that
is VF (00_scope.md R14, decision D3, log entry 6). -/
def Obligations.AddWritesCarryFirst : Prop :=
  ∀ (s : State) (x y : Reg) (f a b : Byte),
    (f = if (s.V x).toNat + (s.V y).toNat > 255 then 1 else 0) →
    (a = if x = VF then f else s.V x) → (b = if y = VF then f else s.V y) →
    ∃ t, exec (.op8XY4 x y) s = .next t ∧ (t.V x).toNat = (a.toNat + b.toNat) % 256 ∧ (x ≠ VF → t.V VF = f) ∧
      (∀ r, r ≠ x → r ≠ VF → t.V r = s.V r) ∧ t.pc = s.pc + 2 ∧ OnlyRegsAndPC s t

/-- 8XY5 (R137) and 8XY7 (R139): f is NOT borrow of the old values, 1 when they are equal, and is written to VF first;
the difference then reads f for an operand that is VF (decision D3, log entry 6). -/
def Obligations.SubtractsWriteNoBorrowFirst : Prop :=
  ∀ (s : State) (x y : Reg) (f a b : Byte),
    ((f = if (s.V y).toNat > (s.V x).toNat then 0 else 1) →
      (a = if x = VF then f else s.V x) → (b = if y = VF then f else s.V y) →
      ∃ t, exec (.op8XY5 x y) s = .next t ∧ (t.V x).toNat = (256 + a.toNat - b.toNat) % 256 ∧ (x ≠ VF → t.V VF = f) ∧
        (∀ r, r ≠ x → r ≠ VF → t.V r = s.V r) ∧ t.pc = s.pc + 2 ∧ OnlyRegsAndPC s t) ∧
    ((f = if (s.V x).toNat > (s.V y).toNat then 0 else 1) →
      (a = if x = VF then f else s.V x) → (b = if y = VF then f else s.V y) →
      ∃ t, exec (.op8XY7 x y) s = .next t ∧ (t.V x).toNat = (256 + b.toNat - a.toNat) % 256 ∧ (x ≠ VF → t.V VF = f) ∧
        (∀ r, r ≠ x → r ≠ VF → t.V r = s.V r) ∧ t.pc = s.pc + 2 ∧ OnlyRegsAndPC s t)

/-- 8XY6 (R138) and 8XYE (R140): VF gets the bit shifted out, then V[x] moves by one bit with 0 entering; with x = 15
the shift reads the bit just written (decision D3, log entry 6). -/
def Obligations.ShiftsWriteTheLostBitFirst : Prop :=
  ∀ (s : State) (x y : Reg),
    (∃ t, exec (.op8XY6 x y) s = .next t ∧
      (x ≠ VF → (t.V x).toNat = (s.V x).toNat / 2 ∧ (t.V VF).toNat = (s.V x).toNat % 2) ∧ (x = VF → t.V VF = 0) ∧
      (∀ r, r ≠ x → r ≠ VF → t.V r = s.V r) ∧ t.pc = s.pc + 2 ∧ OnlyRegsAndPC s t) ∧
    (∃ t, exec (.op8XYE x y) s = .next t ∧
      (x ≠ VF → (t.V x).toNat = (s.V x).toNat * 2 % 256 ∧ (t.V VF).toNat = (s.V x).toNat / 128) ∧
      (x = VF → (t.V VF).toNat = if (s.V VF).toNat ≥ 128 then 2 else 0) ∧
      (∀ r, r ≠ x → r ≠ VF → t.V r = s.V r) ∧ t.pc = s.pc + 2 ∧ OnlyRegsAndPC s t)

/-- The table of R143 for the three flag-writing arithmetic instructions when x or y is 15, with v the old VF, a the
old V[x], b the old V[y] and [c] the flag byte of c (decision D3, log entry 6). -/
def Obligations.FlagAliasingTable : Prop :=
  ∀ (s t : State) (x y : Reg), x ≠ VF → y ≠ VF →
    let v := s.V VF
    let a := s.V x
    let b := s.V y
    (exec (.op8XY4 VF y) s = .next t → t.V VF = flagOf (decide (v.toNat + b.toNat > 255)) + b) ∧
    (exec (.op8XY4 x VF) s = .next t → t.V VF = flagOf (decide (a.toNat + v.toNat > 255)) ∧
      t.V x = a + flagOf (decide (a.toNat + v.toNat > 255))) ∧
    (exec (.op8XY4 VF VF) s = .next t → t.V VF = 2 * flagOf (decide (v.toNat > 127))) ∧
    (exec (.op8XY5 VF y) s = .next t → t.V VF = flagOf (decide (b.toNat ≤ v.toNat)) - b) ∧
    (exec (.op8XY5 x VF) s = .next t → t.V VF = flagOf (decide (v.toNat ≤ a.toNat)) ∧
      t.V x = a - flagOf (decide (v.toNat ≤ a.toNat))) ∧
    (exec (.op8XY5 VF VF) s = .next t → t.V VF = 0) ∧
    (exec (.op8XY7 VF y) s = .next t → t.V VF = b - flagOf (decide (v.toNat ≤ b.toNat))) ∧
    (exec (.op8XY7 x VF) s = .next t → t.V VF = flagOf (decide (a.toNat ≤ v.toNat)) ∧
      t.V x = flagOf (decide (a.toNat ≤ v.toNat)) - a) ∧
    (exec (.op8XY7 VF VF) s = .next t → t.V VF = 0)

/-- CXNN (R141): V[x] gets the supplied byte, whatever it is (a free value, log entry 16), masked with nn; one byte is
consumed; nothing else changes. -/
def Obligations.RandomByteIsMasked : Prop :=
  ∀ (s : State) (x : Reg) (nn : Byte), ∃ t, exec (.opCXNN x nn) s = .next t ∧ t.V x = Config.rand s.draws &&& nn ∧
    (nn = 0 → t.V x = 0) ∧ (∀ j, nn.getLsbD j = false → (t.V x).getLsbD j = false) ∧ t.draws = s.draws + 1 ∧
    (∀ r, r ≠ x → t.V r = s.V r) ∧ t.pc = s.pc + 2 ∧ OnlyRegsAndPC { s with draws := s.draws + 1 } t

/-! ## Index and memory (43_index_memory.md) -/

/-- R150: the encoding of ANNN; I gets nnn, at most 0xFFF, PC advances by 2, and nothing else changes. -/
def Obligations.LoadIndexImmediate : Prop :=
  (∀ (op : Word) (nnn : Addr12),
    decode op = some (.opANNN nnn) ↔ op &&& 0xF000#16 = 0xA000#16 ∧ fieldNNN op = nnn) ∧
  ∀ (s : State) (nnn : Addr12), ∃ t, exec (.opANNN nnn) s = .next t ∧ t.i.toNat = nnn.toNat ∧ t.i.toNat ≤ 0xFFF ∧
    t.pc = s.pc + 2 ∧ SameRegs s t ∧ SameMemory s t ∧ SameStack s t ∧ SameTimers s t ∧ SameDisplay s t ∧
    SameKeys s t ∧ SameEnvironment s t ∧ t.draws = s.draws

/-- FX1E (R151; wrap is decision D8, the order decision D3) and FX29 (R152): the flag and the new I; with x = 15 the
addition reads the flag just written; FX29 multiplies the whole register by 5. -/
def Obligations.IndexArithmetic : Prop :=
  ∀ (s : State) (x : Reg) (f a : Byte),
    ((f = if s.i.toNat + (s.V x).toNat > 4095 then 1 else 0) → (a = if x = VF then f else s.V x) →
      ∃ t, exec (.opFX1E x) s = .next t ∧ t.V VF = f ∧ t.i.toNat = (s.i.toNat + a.toNat) % 65536 ∧
        (∀ r, r ≠ VF → t.V r = s.V r) ∧ t.pc = s.pc + 2 ∧ OnlyRegsAndPC { s with i := t.i } t) ∧
    (∃ t, exec (.opFX29 x) s = .next t ∧ t.i.toNat = (s.V x).toNat * 5 ∧ SameRegs s t ∧ t.pc = s.pc + 2 ∧
      OnlyRegsAndPC { s with i := t.i } t)

/-- R153: the encoding of FX33; it stores hundreds, tens and units at I, I + 1, I + 2, leaves every other byte, I and
the registers alone; when I + 2 > 4095 it reports MemoryRange (code 4) with the last address and nothing else changes
(R205, R55; decisions D5, D14; log entries 1, 2, 8, 13, 21). -/
def Obligations.StoreDecimalDigits : Prop :=
  (∀ (op : Word) (x : Reg), decode op = some (.opFX33 x) ↔ op &&& 0xF0FF#16 = 0xF033#16 ∧ fieldX op = x) ∧
  ∀ (s : State) (x : Reg),
    (s.i.toNat + 2 ≤ 4095 → ∃ t, exec (.opFX33 x) s = .next t ∧
      (t.mem.read (s.dataAddr 0)).toNat = (s.V x).toNat / 100 ∧
      (t.mem.read (s.dataAddr 1)).toNat = (s.V x).toNat / 10 % 10 ∧
      (t.mem.read (s.dataAddr 2)).toNat = (s.V x).toNat % 10 ∧
      SameMemoryOutside (s.dataAddr 0) 3 s t ∧ SameRegs s t ∧ t.pc = s.pc + 2 ∧ t.i = s.i ∧ SameStack s t ∧
      SameTimers s t ∧ SameDisplay s t ∧ SameKeys s t ∧ SameEnvironment s t ∧ t.draws = s.draws) ∧
    (s.i.toNat + 2 > 4095 →
      exec (.opFX33 x) s = .next (s.reporting (.memoryRange s.pc (encode (.opFX33 x)) (s.i.toNat + 2))) ∧
      (Fault.memoryRange s.pc (encode (.opFX33 x)) (s.i.toNat + 2)).code = 4)

/-- FX55 (R154): V[0]..V[x] go to I..I + x, x included, every other byte and I are unchanged; when I + x > 4095 there is
no partial store, only the fault (decision D14, log entry 13). -/
def Obligations.StoreRegisters : Prop :=
  ∀ (s : State) (x : Reg),
    (s.i.toNat + x.val ≤ 4095 → ∃ t, exec (.opFX55 x) s = .next t ∧
      (∀ r : Reg, r ≤ x → t.mem.read (s.dataAddr r.val) = s.V r) ∧
      SameMemoryOutside (s.dataAddr 0) (x.val + 1) s t ∧ SameRegs s t ∧ t.pc = s.pc + 2 ∧ t.i = s.i ∧ SameStack s t ∧
      SameTimers s t ∧ SameDisplay s t ∧ SameKeys s t ∧ SameEnvironment s t ∧ t.draws = s.draws) ∧
    (s.i.toNat + x.val > 4095 →
      exec (.opFX55 x) s = .next (s.reporting (.memoryRange s.pc (encode (.opFX55 x)) (s.i.toNat + x.val))))

/-- R155: the encoding of FX65; V[0]..V[x] come from I..I + x, registers above x, memory and I are unchanged; when
I + x > 4095 it reports MemoryRange (code 4) with the last address and nothing else changes (R205, R55; decisions D5,
D14; log entries 1, 2, 8, 13, 21). -/
def Obligations.LoadRegisters : Prop :=
  (∀ (op : Word) (x : Reg), decode op = some (.opFX65 x) ↔ op &&& 0xF0FF#16 = 0xF065#16 ∧ fieldX op = x) ∧
  ∀ (s : State) (x : Reg),
    (s.i.toNat + x.val ≤ 4095 → ∃ t, exec (.opFX65 x) s = .next t ∧
      (∀ r : Reg, t.V r = if r ≤ x then s.mem.read (s.dataAddr r.val) else s.V r) ∧ t.pc = s.pc + 2 ∧
      OnlyRegsAndPC s t) ∧
    (s.i.toNat + x.val > 4095 →
      exec (.opFX65 x) s = .next (s.reporting (.memoryRange s.pc (encode (.opFX65 x)) (s.i.toNat + x.val))) ∧
      (Fault.memoryRange s.pc (encode (.opFX65 x)) (s.i.toNat + x.val)).code = 4)

/-- FX55 then, with the same I and nothing having written the range in between, FX65 with the same x restores V[0]..V[x]
(R157). -/
def Obligations.StoreLoadRoundTrip : Prop :=
  ∀ (s t u : State) (x : Reg), s.i.toNat + x.val ≤ 4095 → exec (.opFX55 x) s = .next t → u.i = s.i →
    (∀ a, s.i.toNat ≤ a → a ≤ s.i.toNat + x.val → u.mem.read a = t.mem.read a) →
    ∃ w, exec (.opFX65 x) u = .next w ∧ ∀ r : Reg, r ≤ x → w.V r = s.V r

/-- Fetch is coherent with stores (20_memory.md R63, decision D24, log entry 25): after FX55, FX33 or `loadProgram`, every
fetch made before memory is written again reads the stored bytes, in its high half, its low half or both, and the
bytes not stored as they were. -/
def Obligations.FetchSeesTheStore : Prop :=
  ∀ (s t u : State) (x : Reg) (image : List Byte), u.mem = t.mem →
    (s.i.toNat + x.val ≤ 4095 → exec (.opFX55 x) s = .next t →
      FetchReads s u s.i.toNat (((List.finRange 16).take (x.val + 1)).map s.V)) ∧
    (s.i.toNat + 2 ≤ 4095 → exec (.opFX33 x) s = .next t →
      FetchReads s u s.i.toNat [BitVec.ofNat 8 ((s.V x).toNat / 100), BitVec.ofNat 8 ((s.V x).toNat / 10 % 10),
        BitVec.ofNat 8 ((s.V x).toNat % 10)]) ∧
    (image.length ≤ 3584 → perform (.loadProgram image) s = .next t → FetchReads s u 512 image)

/-- Two memories in canonical form that read alike at every address are equal data. -/
def Obligations.CanonicalMemoriesAreEqual : Prop :=
  ∀ m m' : Memory, m.wf = true → m'.wf = true → (∀ a, m.read a = m'.read a) → m = m'

/-! ## Input and timers (44_input_timers.md) -/

/-- EX9E and EXA1 (R170, R171): skip on the level of key V[x]; above 15 they fault and nothing else changes (decision
D10, log entry 11). -/
def Obligations.KeySkips : Prop :=
  ∀ (s : State) (x : Reg),
    (∀ k : Key, (s.V x).toNat = k.val →
      (∃ t, exec (.opEX9E x) s = .next t ∧ (t.pc = if s.keyDown k = true then s.pc + 4 else s.pc + 2) ∧ OnlyPC s t) ∧
      (∃ t, exec (.opEXA1 x) s = .next t ∧ (t.pc = if s.keyDown k = true then s.pc + 2 else s.pc + 4) ∧ OnlyPC s t)) ∧
    (15 < (s.V x).toNat →
      exec (.opEX9E x) s = .next (s.reporting (.keyRange s.pc (encode (.opEX9E x)) (s.V x))) ∧
      exec (.opEXA1 x) s = .next (s.reporting (.keyRange s.pc (encode (.opEXA1 x)) (s.V x))))

/-- FX0A (R173): with a key down, the least one (decision D11, log entry 12) goes to V[x]; with none down nothing
changes but the result `waiting`, and PC still points at the instruction. -/
def Obligations.WaitForKey : Prop :=
  ∀ (s : State) (x : Reg),
    (∀ k : Key, s.keyDown k = true → (∀ j < k, s.keyDown j = false) →
      ∃ t, exec (.opFX0A x) s = .next t ∧ (t.V x).toNat = k.val ∧ (∀ r, r ≠ x → t.V r = s.V r) ∧ t.pc = s.pc + 2 ∧
        OnlyRegsAndPC s t) ∧
    ((∀ k, s.keyDown k = false) → exec (.opFX0A x) s = .next (s.returning .waiting))

/-- FX07, FX15 and FX18 (R172, R174, R175): V[x] from DT, DT from V[x], ST from V[x], nothing else changed. -/
def Obligations.TimerTransfers : Prop :=
  ∀ (s : State) (x : Reg),
    (∃ t, exec (.opFX07 x) s = .next t ∧ t.V x = s.dt ∧ (∀ r, r ≠ x → t.V r = s.V r) ∧ t.pc = s.pc + 2 ∧
      OnlyRegsAndPC s t) ∧
    (∃ t, exec (.opFX15 x) s = .next t ∧ t.dt = s.V x ∧ SameRegs s t ∧ t.pc = s.pc + 2 ∧
      OnlyRegsAndPC { s with dt := t.dt } t) ∧
    (∃ t, exec (.opFX18 x) s = .next t ∧ t.st = s.V x ∧ SameRegs s t ∧ t.pc = s.pc + 2 ∧
      OnlyRegsAndPC { s with st := t.st } t)

/-! ## Whole-machine rules -/

/-- R32: 00E0 and DXYN set DIRTY every time they execute (a faulting DXYN does not), no instruction clears it, only the
host's `clearDirty()` and `init()` do (that `init()` clears it is decision D13, log entry 5). -/
def Obligations.DirtyIsSetByDrawingOnly : Prop :=
  (∀ (i : Instr) (s t : State), exec i s = .next t →
    (s.dirty = true → t.dirty = true) ∧
    (i = .op00E0 ∨ (∃ x y n, i = .opDXYN x y n ∧ t.faults = s.faults) → t.dirty = true) ∧
    (s.dirty = false → t.dirty = true → i = .op00E0 ∨ ∃ x y n, i = .opDXYN x y n)) ∧
  (∀ s : State, s.clearDirty.dirty = false ∧ s.init.dirty = false) ∧
  ∀ s t : State, step s = .next t → s.dirty = true → t.dirty = false → s.nextOp.1 = .clearDirty ∨ s.nextOp.1 = .init

/-- From R28: only 2NNN writes the stack array, into STACK[SP]; only 00EE reads it; a pop clears nothing; entries at SP and
above are observed by no instruction; the stack is not in memory. The last two are read as: states that agree but for
such entries (or, for an instruction other than 00EE, but for the whole array) go to states that agree so again, given
the same random byte (equal draw counts, log entry 16). -/
def Obligations.StaleStackEntriesUnobservable : Prop :=
  (∀ (i : Instr) (s t : State), exec i s = .next t → t.stack ≠ s.stack →
    (∃ nnn, i = .op2NNN nnn) ∧ (∀ j : Fin 16, j.val ≠ s.sp.val → t.stack[j.val] = s.stack[j.val]) ∧
      (∀ h : s.sp.val < 16, t.stack[s.sp.val] = s.pc) ∧ SameMemory s t) ∧
  (∀ (i : Instr) (s u t w : State), SameBlock { s with stack := u.stack } u → s.draws = u.draws → i ≠ .op00EE →
    exec i s = .next t → exec i u = .next w → SameBlock { t with stack := w.stack } w) ∧
  ∀ (i : Instr) (s u t w : State), SameBlock { s with stack := u.stack } u → s.draws = u.draws →
    (∀ j : Fin 16, j.val < s.sp.val → s.stack[j.val] = u.stack[j.val]) →
    exec i s = .next t → exec i u = .next w →
      SameBlock { t with stack := w.stack } w ∧ ∀ j : Fin 16, j.val < t.sp.val → t.stack[j.val] = w.stack[j.val]

/-- No hidden state (10_state.md R36): what an instruction does to the block, and what a step returns (R204), depends on
the block and the random byte alone, not on the fault log, the last result, the schedule or the cadence. Equal draw
counts stand for the same random byte (R141, R219; log entry 16). -/
def Obligations.NoHiddenState : Prop :=
  (∀ (i : Instr) (s u t w : State), SameBlock s u → s.draws = u.draws →
    exec i s = .next t → exec i u = .next w → SameBlock t w ∧ t.draws = w.draws ∧
      (s.result = u.result → t.result = w.result) ∧ ∀ f, t.faults = f :: s.faults ↔ w.faults = f :: u.faults) ∧
  ∀ s u t w : State, SameBlock s u → s.draws = u.draws → blockStep s = .next t → blockStep u = .next w →
    SameBlock t w ∧ t.draws = w.draws ∧ t.result = w.result ∧ ∀ f, t.faults = f :: s.faults ↔ w.faults = f :: u.faults

/-- The elements other than V and PC change only by the instructions R23 and R20 name for them; the input latch by none
(R33); the model's schedule, cadence and owed tick by none; a random byte is consumed by CXNN alone (60_exceptions.md
R219). -/
def Obligations.OnlyNamedInstructionsWrite : Prop :=
  ∀ (i : Instr) (s t : State), exec i s = .next t →
    (¬SameMemory s t → (∃ x, i = .opFX33 x) ∨ ∃ x, i = .opFX55 x) ∧
    (t.i ≠ s.i → (∃ nnn, i = .opANNN nnn) ∨ (∃ x, i = .opFX1E x) ∨ ∃ x, i = .opFX29 x) ∧
    (t.sp ≠ s.sp → i = .op00EE ∨ ∃ nnn, i = .op2NNN nnn) ∧
    (t.stack ≠ s.stack → ∃ nnn, i = .op2NNN nnn) ∧
    (t.dt ≠ s.dt → ∃ x, i = .opFX15 x) ∧
    (t.st ≠ s.st → ∃ x, i = .opFX18 x) ∧
    (t.fb ≠ s.fb → i = .op00E0 ∨ ∃ x y n, i = .opDXYN x y n) ∧
    (t.dirty ≠ s.dirty → i = .op00E0 ∨ ∃ x y n, i = .opDXYN x y n) ∧
    (t.draws ≠ s.draws → ∃ x nn, i = .opCXNN x nn) ∧
    t.key = s.key ∧ t.schedule = s.schedule ∧ t.cadence = s.cadence ∧ t.tickOwed = s.tickOwed

/-- Registers change only as R22 and R23 say: the destinations, and VF for the flag-writing instructions. -/
def Obligations.OnlyNamedRegistersWritten : Prop :=
  ∀ (i : Instr) (s t : State) (r : Reg), exec i s = .next t → t.V r ≠ s.V r → WritesReg i r

/-- After an instruction PC is PC + 2, PC + 4, a target, a popped entry + 2, or unchanged by a wait or a fault, each by
the instructions R24 names. -/
def Obligations.NextPCForms : Prop :=
  ∀ (i : Instr) (s t : State), exec i s = .next t →
    (t.pc = s.pc + 2 ∧ i ≠ .op00EE ∧ (∀ nnn, i ≠ .op1NNN nnn ∧ i ≠ .op2NNN nnn ∧ i ≠ .opBNNN nnn)) ∨
    (t.pc = s.pc + 4 ∧ ((∃ x nn, i = .op3XNN x nn ∨ i = .op4XNN x nn) ∨ (∃ x y, i = .op5XY0 x y ∨ i = .op9XY0 x y) ∨
      ∃ x, i = .opEX9E x ∨ i = .opEXA1 x)) ∨
    (∃ nnn, (i = .op1NNN nnn ∨ i = .op2NNN nnn) ∧ t.pc = zextAddr nnn) ∨
    (∃ nnn, i = .opBNNN nnn ∧ t.pc = zextAddr nnn + zextByte (s.V 0)) ∨
    (∃ h : 0 < s.sp.val, i = .op00EE ∧ t.pc = s.stack[s.sp.val - 1]'(by have := s.sp.isLt; omega) + 2) ∨
    (t.pc = s.pc ∧ (t.result = .waiting ∧ (∃ x, i = .opFX0A x) ∨ ∃ f, t.faults = f :: s.faults))
end

