-- ==== Sys2Proof/Laws/Decode.lean ====
section
/-! SUPPORT. The laws of the encoding: the fields of each layout, and that a word is made of its fields. -/

namespace Sys2Proof

/-! ### Fields as numbers -/

theorem fieldH_toNat (op : Word) : (fieldH op).toNat = op.toNat / 4096 := by
  simp only [fieldH, BitVec.extractLsb'_toNat, Nat.shiftRight_eq_div_pow]
  have := op.isLt
  omega

theorem fieldX_val (op : Word) : (fieldX op).val = op.toNat / 256 % 16 := by
  simp [fieldX, Nat.shiftRight_eq_div_pow]

theorem fieldY_val (op : Word) : (fieldY op).val = op.toNat / 16 % 16 := by
  simp [fieldY, Nat.shiftRight_eq_div_pow]

theorem fieldN_toNat (op : Word) : (fieldN op).toNat = op.toNat % 16 := by
  simp [fieldN, BitVec.extractLsb'_toNat]

theorem fieldNN_toNat (op : Word) : (fieldNN op).toNat = op.toNat % 256 := by
  simp [fieldNN, BitVec.extractLsb'_toNat]

theorem fieldNNN_toNat (op : Word) : (fieldNNN op).toNat = op.toNat % 4096 := by
  simp [fieldNNN, BitVec.extractLsb'_toNat]

/-! ### Layouts as numbers -/

theorem append_toNat {v w : Nat} (a : BitVec v) (b : BitVec w) : (a ++ b).toNat = a.toNat * 2 ^ w + b.toNat := by
  rw [BitVec.toNat_append, Nat.shiftLeft_eq, Nat.mul_comm, ← Nat.two_pow_add_eq_or_of_lt b.isLt]

theorem formatNNN_toNat (h : BitVec 4) (nnn : Addr12) : (formatNNN h nnn).toNat = h.toNat * 4096 + nnn.toNat := by
  rw [formatNNN, append_toNat]; rfl

theorem formatXNN_toNat (h : BitVec 4) (x : Reg) (nn : Byte) :
    (formatXNN h x nn).toNat = h.toNat * 4096 + x.val * 256 + nn.toNat := by
  rw [formatXNN, append_toNat, append_toNat]
  simp only [regBits, BitVec.toNat_ofFin]
  omega

theorem formatXYN_toNat (h : BitVec 4) (x y : Reg) (low : BitVec 4) :
    (formatXYN h x y low).toNat = h.toNat * 4096 + x.val * 256 + y.val * 16 + low.toNat := by
  rw [formatXYN, append_toNat, append_toNat, append_toNat]
  simp only [regBits, BitVec.toNat_ofFin]
  omega

/-! ### Fields of a layout -/

section
variable (h low : BitVec 4) (x y : Reg) (nn : Byte) (nnn : Addr12)

@[simp] theorem fieldH_formatNNN : fieldH (formatNNN h nnn) = h := by
  apply BitVec.eq_of_toNat_eq; rw [fieldH_toNat, formatNNN_toNat]; have := nnn.isLt; omega
@[simp] theorem fieldNNN_formatNNN : fieldNNN (formatNNN h nnn) = nnn := by
  apply BitVec.eq_of_toNat_eq; rw [fieldNNN_toNat, formatNNN_toNat]; have := nnn.isLt; omega
@[simp] theorem fieldH_formatXNN : fieldH (formatXNN h x nn) = h := by
  apply BitVec.eq_of_toNat_eq; rw [fieldH_toNat, formatXNN_toNat]; have := nn.isLt; omega
@[simp] theorem fieldX_formatXNN : fieldX (formatXNN h x nn) = x := by
  apply Fin.ext; rw [fieldX_val, formatXNN_toNat]; have := nn.isLt; omega
@[simp] theorem fieldNN_formatXNN : fieldNN (formatXNN h x nn) = nn := by
  apply BitVec.eq_of_toNat_eq; rw [fieldNN_toNat, formatXNN_toNat]; have := nn.isLt; omega
@[simp] theorem fieldH_formatXYN : fieldH (formatXYN h x y low) = h := by
  apply BitVec.eq_of_toNat_eq; rw [fieldH_toNat, formatXYN_toNat]; have := low.isLt; omega
@[simp] theorem fieldX_formatXYN : fieldX (formatXYN h x y low) = x := by
  apply Fin.ext; rw [fieldX_val, formatXYN_toNat]; have := low.isLt; omega
@[simp] theorem fieldY_formatXYN : fieldY (formatXYN h x y low) = y := by
  apply Fin.ext; rw [fieldY_val, formatXYN_toNat]; have := low.isLt; omega
@[simp] theorem fieldN_formatXYN : fieldN (formatXYN h x y low) = low := by
  apply BitVec.eq_of_toNat_eq; rw [fieldN_toNat, formatXYN_toNat]; have := low.isLt; omega
end

/-! ### A word is made of its fields -/

theorem formatNNN_of_fields (op : Word) : formatNNN (fieldH op) (fieldNNN op) = op := by
  apply BitVec.eq_of_toNat_eq; rw [formatNNN_toNat, fieldH_toNat, fieldNNN_toNat]; omega

theorem formatXNN_of_fields (op : Word) : formatXNN (fieldH op) (fieldX op) (fieldNN op) = op := by
  apply BitVec.eq_of_toNat_eq; rw [formatXNN_toNat, fieldH_toNat, fieldX_val, fieldNN_toNat]; omega

theorem formatXYN_of_fields (op : Word) : formatXYN (fieldH op) (fieldX op) (fieldY op) (fieldN op) = op := by
  apply BitVec.eq_of_toNat_eq
  rw [formatXYN_toNat, fieldH_toNat, fieldX_val, fieldY_val, fieldN_toNat]
  omega

/-- The two stored bytes of an opcode make it again (20_memory.md R52). -/
@[simp] theorem opcodeOf_bytes (op : Word) : opcodeOf (highByte op) (lowByte op) = op := by
  apply BitVec.eq_of_toNat_eq
  rw [opcodeOf, append_toNat]
  simp only [highByte, lowByte, BitVec.extractLsb'_toNat, Nat.shiftRight_eq_div_pow]
  have := op.isLt
  omega

/-- No word matches the patterns of two rows (30_encoding.md R75). -/
theorem opcodeTable_no_overlap :
    opcodeTable.Pairwise fun a b => (a.pattern ^^^ b.pattern) &&& (a.mask &&& b.mask) ≠ 0 := by decide

/-- The table has the 34 rows of 00_scope.md R2. -/
theorem opcodeTable_length : opcodeTable.length = 34 := by decide

end Sys2Proof
end

