-- ==== Sys2Proof/Laws/Memory.lean ====
section
/-! SUPPORT. The laws of memory: read over write, the canonical form, and the ascending transfers. -/

namespace Sys2Proof.Machine

open Sys2Proof

namespace Memory

variable {m : Memory} {a b k : Nat} {w : Byte}

/-! ### Reading -/

@[simp] theorem read_nil : Memory.read [] a = atCreate a := rfl

theorem read_cons (c : Host.Cell) : Memory.read (c :: m) a = if c.1 = a then c.2 else m.read a := rfl

/-- Past the font a machine just created holds 0. -/
theorem atCreate_past_font (h : 80 ≤ a) : atCreate a = 0 := by
  have hl : defaultFont.length ≤ a := by simpa [defaultFont] using h
  simp [atCreate, List.getD_eq_getElem?_getD, List.getElem?_eq_none hl]

/-- An address no cell names reads as at create. -/
theorem read_of_not_listed (h : ∀ c ∈ m, c.1 ≠ a) : m.read a = atCreate a := by
  induction m with
  | nil => rfl
  | cons c rest ih =>
    rw [read_cons, if_neg (h c (by simp))]
    exact ih fun d hd => h d (by simp [hd])

theorem read_filter_other (h : b ≠ a) : Memory.read (m.filter fun c => c.1 != a) b = m.read b := by
  induction m with
  | nil => rfl
  | cons c rest ih =>
    by_cases hc : c.1 = a
    · simp [hc, ih, read_cons, Ne.symm h]
    · simp [hc, ih, read_cons]

theorem read_filter_same : Memory.read (m.filter fun c => c.1 != a) a = atCreate a :=
  read_of_not_listed fun c hc => by simpa using (List.mem_filter.mp hc).2

theorem read_insertCell_same (h : ∀ c ∈ m, c.1 ≠ a) : (insertCell a w m).read a = w := by
  induction m with
  | nil => simp [insertCell, read_cons]
  | cons c rest ih =>
    unfold insertCell
    split
    · simp [read_cons]
    · rw [read_cons, if_neg (h c (by simp))]
      exact ih fun d hd => h d (by simp [hd])

theorem read_insertCell_other (h : b ≠ a) : (insertCell a w m).read b = m.read b := by
  induction m with
  | nil => simp [insertCell, read_cons, Ne.symm h]
  | cons c rest ih =>
    unfold insertCell
    split
    · simp [read_cons, Ne.symm h]
    · simp [read_cons, ih]

/-! ### Writing -/

/-- A read after a write to the same place gives the value written. -/
@[simp] theorem read_write_same : (m.write a w).read a = w := by
  unfold write
  split
  · rw [read_filter_same]; exact (‹w = atCreate a›).symm
  · exact read_insertCell_same fun c hc => by simpa using (List.mem_filter.mp hc).2

/-- A write leaves every other place alone. -/
theorem read_write_other (h : b ≠ a) : (m.write a w).read b = m.read b := by
  unfold write
  split
  · exact read_filter_other h
  · rw [read_insertCell_other h, read_filter_other h]

/-- What a write does to every read. -/
theorem read_write : (m.write a w).read b = if b = a then w else m.read b := by
  split
  · simp [‹b = a›]
  · exact read_write_other ‹_›

/-! ### The canonical form -/

theorem wf_cons {c : Host.Cell} :
    Memory.wf (c :: m) = true ↔
      c.1 ≤ 4095 ∧ c.2 ≠ atCreate c.1 ∧ (∀ d ∈ m, c.1 < d.1) ∧ m.wf = true := by
  simp [wf, and_assoc]

theorem wf_filter (p : Host.Cell → Bool) (h : m.wf = true) : Memory.wf (m.filter p) = true := by
  induction m with
  | nil => rfl
  | cons c rest ih =>
    obtain ⟨h1, h2, h3, h4⟩ := wf_cons.mp h
    rw [List.filter_cons]
    split
    · exact wf_cons.mpr ⟨h1, h2, fun d hd => h3 d (List.mem_filter.mp hd).1, ih h4⟩
    · exact ih h4

theorem mem_insertCell {c : Host.Cell} (h : c ∈ insertCell a w m) : c = (a, w) ∨ c ∈ m := by
  induction m with
  | nil => simpa [insertCell] using h
  | cons d rest ih =>
    unfold insertCell at h
    split at h
    · simpa using h
    · rcases List.mem_cons.mp h with rfl | h
      · simp
      · rcases ih h with h | h <;> simp [h]

theorem wf_insertCell (h : m.wf = true) (ha : a ≤ 4095) (hw : w ≠ atCreate a) (hn : ∀ c ∈ m, c.1 ≠ a) :
    Memory.wf (insertCell a w m) = true := by
  induction m with
  | nil => simp [insertCell, ha, hw, wf]
  | cons c rest ih =>
    obtain ⟨h1, h2, h3, h4⟩ := wf_cons.mp h
    unfold insertCell
    split
    · rename_i hlt
      refine wf_cons.mpr ⟨ha, hw, fun d hd => ?_, h⟩
      rcases List.mem_cons.mp hd with rfl | hd
      · exact hlt
      · exact Nat.lt_trans hlt (h3 d hd)
    · rename_i hge
      refine wf_cons.mpr ⟨h1, h2, fun d hd => ?_, ih h4 fun d hd => hn d (by simp [hd])⟩
      rcases mem_insertCell hd with rfl | hd
      · have hne := hn c (by simp)
        simp only at hne hge ⊢
        omega
      · exact h3 d hd

/-- A write inside memory keeps the canonical form. -/
theorem wf_write (h : m.wf = true) (ha : a ≤ 4095) : (m.write a w).wf = true := by
  unfold write
  split
  · exact wf_filter _ h
  · exact wf_insertCell (wf_filter _ h) ha ‹_› fun c hc => by simpa using (List.mem_filter.mp hc).2

/-! ### Transfers -/

/-- What an ascending store does to every read. -/
theorem read_storeBytes (bs : List Byte) :
    (m.storeBytes a bs).read b = if h : a ≤ b ∧ b - a < bs.length then bs[b - a]'h.2 else m.read b := by
  induction bs generalizing m a with
  | nil => simp [storeBytes]
  | cons x rest ih =>
    rw [storeBytes, ih, read_write]
    by_cases hba : b = a
    · subst hba; simp
    · by_cases h : a + 1 ≤ b ∧ b - (a + 1) < rest.length
      · have h' : a ≤ b ∧ b - a < (x :: rest).length := by simp only [List.length_cons]; omega
        obtain ⟨k, hk⟩ : ∃ k, b - a = k + 1 := ⟨b - a - 1, by omega⟩
        rw [dif_pos h, dif_pos h']
        simp only [hk, List.getElem_cons_succ]
        congr 1
        omega
      · have h' : ¬(a ≤ b ∧ b - a < (x :: rest).length) := by simp only [List.length_cons]; omega
        rw [dif_neg h, dif_neg h', if_neg hba]

/-- An ascending store leaves every byte outside its range alone. -/
theorem read_storeBytes_outside {bs : List Byte} (h : b < a ∨ a + bs.length ≤ b) :
    (m.storeBytes a bs).read b = m.read b := by
  rw [read_storeBytes, dif_neg (by omega)]

/-- The k-th byte stored reads back. -/
theorem read_storeBytes_inside {bs : List Byte} (h : k < bs.length) : (m.storeBytes a bs).read (a + k) = bs[k] := by
  rw [read_storeBytes, dif_pos (by omega)]
  simp

/-- A store inside memory keeps the canonical form. -/
theorem wf_storeBytes {bs : List Byte} (h : m.wf = true) (hr : InRange a bs.length) :
    (m.storeBytes a bs).wf = true := by
  induction bs generalizing m a with
  | nil => exact h
  | cons x rest ih =>
    have hr' : a + (rest.length + 1) ≤ 4096 := by simpa [InRange] using hr
    exact ih (wf_write h (by omega)) (show a + 1 + rest.length ≤ 4096 by omega)

@[simp] theorem length_loadBytes : (m.loadBytes a k).length = k := by
  induction k generalizing a with
  | zero => rfl
  | succ k ih => simp [loadBytes, ih]

/-- The j-th byte of an ascending load. -/
@[simp] theorem getElem_loadBytes (j : Nat) (h : j < (m.loadBytes a k).length) :
    (m.loadBytes a k)[j] = m.read (a + j) := by
  induction k generalizing a j with
  | zero => simp [loadBytes] at h
  | succ k ih =>
    cases j with
    | zero => simp [loadBytes]
    | succ j =>
      simp only [loadBytes, List.getElem_cons_succ]
      rw [ih]
      congr 1
      omega

end Memory

end Sys2Proof.Machine
end

