-- ==== Sys2Proof/Laws/State.lean ====
section
/-! SUPPORT. One lemma per field per update of the state, so that no later proof unfolds a record update. -/

namespace Sys2Proof.Machine.State

variable (s : State)

/-! ### setV -/

@[simp] theorem setV_mem (r : Reg) (b : Byte) : (s.setV r b).mem = s.mem := rfl
@[simp] theorem setV_v (r : Reg) (b : Byte) : (s.setV r b).v = s.v.set r.val b := rfl
@[simp] theorem setV_i (r : Reg) (b : Byte) : (s.setV r b).i = s.i := rfl
@[simp] theorem setV_pc (r : Reg) (b : Byte) : (s.setV r b).pc = s.pc := rfl
@[simp] theorem setV_sp (r : Reg) (b : Byte) : (s.setV r b).sp = s.sp := rfl
@[simp] theorem setV_stack (r : Reg) (b : Byte) : (s.setV r b).stack = s.stack := rfl
@[simp] theorem setV_dt (r : Reg) (b : Byte) : (s.setV r b).dt = s.dt := rfl
@[simp] theorem setV_st (r : Reg) (b : Byte) : (s.setV r b).st = s.st := rfl
@[simp] theorem setV_fb (r : Reg) (b : Byte) : (s.setV r b).fb = s.fb := rfl
@[simp] theorem setV_dirty (r : Reg) (b : Byte) : (s.setV r b).dirty = s.dirty := rfl
@[simp] theorem setV_key (r : Reg) (b : Byte) : (s.setV r b).key = s.key := rfl
@[simp] theorem setV_cadence (r : Reg) (b : Byte) : (s.setV r b).cadence = s.cadence := rfl
@[simp] theorem setV_schedule (r : Reg) (b : Byte) : (s.setV r b).schedule = s.schedule := rfl
@[simp] theorem setV_draws (r : Reg) (b : Byte) : (s.setV r b).draws = s.draws := rfl
@[simp] theorem setV_result (r : Reg) (b : Byte) : (s.setV r b).result = s.result := rfl
@[simp] theorem setV_faults (r : Reg) (b : Byte) : (s.setV r b).faults = s.faults := rfl
@[simp] theorem setV_tickOwed (r : Reg) (b : Byte) : (s.setV r b).tickOwed = s.tickOwed := rfl

/-! ### advance -/

@[simp] theorem advance_mem : s.advance.mem = s.mem := rfl
@[simp] theorem advance_v : s.advance.v = s.v := rfl
@[simp] theorem advance_i : s.advance.i = s.i := rfl
@[simp] theorem advance_pc : s.advance.pc = s.pc + 2 := rfl
@[simp] theorem advance_sp : s.advance.sp = s.sp := rfl
@[simp] theorem advance_stack : s.advance.stack = s.stack := rfl
@[simp] theorem advance_dt : s.advance.dt = s.dt := rfl
@[simp] theorem advance_st : s.advance.st = s.st := rfl
@[simp] theorem advance_fb : s.advance.fb = s.fb := rfl
@[simp] theorem advance_dirty : s.advance.dirty = s.dirty := rfl
@[simp] theorem advance_key : s.advance.key = s.key := rfl
@[simp] theorem advance_cadence : s.advance.cadence = s.cadence := rfl
@[simp] theorem advance_schedule : s.advance.schedule = s.schedule := rfl
@[simp] theorem advance_draws : s.advance.draws = s.draws := rfl
@[simp] theorem advance_result : s.advance.result = s.result := rfl
@[simp] theorem advance_faults : s.advance.faults = s.faults := rfl
@[simp] theorem advance_tickOwed : s.advance.tickOwed = s.tickOwed := rfl

/-! ### jumpTo -/

@[simp] theorem jumpTo_mem (a : Word) : (s.jumpTo a).mem = s.mem := rfl
@[simp] theorem jumpTo_v (a : Word) : (s.jumpTo a).v = s.v := rfl
@[simp] theorem jumpTo_i (a : Word) : (s.jumpTo a).i = s.i := rfl
@[simp] theorem jumpTo_pc (a : Word) : (s.jumpTo a).pc = a := rfl
@[simp] theorem jumpTo_sp (a : Word) : (s.jumpTo a).sp = s.sp := rfl
@[simp] theorem jumpTo_stack (a : Word) : (s.jumpTo a).stack = s.stack := rfl
@[simp] theorem jumpTo_dt (a : Word) : (s.jumpTo a).dt = s.dt := rfl
@[simp] theorem jumpTo_st (a : Word) : (s.jumpTo a).st = s.st := rfl
@[simp] theorem jumpTo_fb (a : Word) : (s.jumpTo a).fb = s.fb := rfl
@[simp] theorem jumpTo_dirty (a : Word) : (s.jumpTo a).dirty = s.dirty := rfl
@[simp] theorem jumpTo_key (a : Word) : (s.jumpTo a).key = s.key := rfl
@[simp] theorem jumpTo_cadence (a : Word) : (s.jumpTo a).cadence = s.cadence := rfl
@[simp] theorem jumpTo_schedule (a : Word) : (s.jumpTo a).schedule = s.schedule := rfl
@[simp] theorem jumpTo_draws (a : Word) : (s.jumpTo a).draws = s.draws := rfl
@[simp] theorem jumpTo_result (a : Word) : (s.jumpTo a).result = s.result := rfl
@[simp] theorem jumpTo_faults (a : Word) : (s.jumpTo a).faults = s.faults := rfl
@[simp] theorem jumpTo_tickOwed (a : Word) : (s.jumpTo a).tickOwed = s.tickOwed := rfl

/-! ### skipIf -/

@[simp] theorem skipIf_mem (c : Bool) : (s.skipIf c).mem = s.mem := rfl
@[simp] theorem skipIf_v (c : Bool) : (s.skipIf c).v = s.v := rfl
@[simp] theorem skipIf_i (c : Bool) : (s.skipIf c).i = s.i := rfl
@[simp] theorem skipIf_pc (c : Bool) : (s.skipIf c).pc = if c then s.pc + 4 else s.pc + 2 := rfl
@[simp] theorem skipIf_sp (c : Bool) : (s.skipIf c).sp = s.sp := rfl
@[simp] theorem skipIf_stack (c : Bool) : (s.skipIf c).stack = s.stack := rfl
@[simp] theorem skipIf_dt (c : Bool) : (s.skipIf c).dt = s.dt := rfl
@[simp] theorem skipIf_st (c : Bool) : (s.skipIf c).st = s.st := rfl
@[simp] theorem skipIf_fb (c : Bool) : (s.skipIf c).fb = s.fb := rfl
@[simp] theorem skipIf_dirty (c : Bool) : (s.skipIf c).dirty = s.dirty := rfl
@[simp] theorem skipIf_key (c : Bool) : (s.skipIf c).key = s.key := rfl
@[simp] theorem skipIf_cadence (c : Bool) : (s.skipIf c).cadence = s.cadence := rfl
@[simp] theorem skipIf_schedule (c : Bool) : (s.skipIf c).schedule = s.schedule := rfl
@[simp] theorem skipIf_draws (c : Bool) : (s.skipIf c).draws = s.draws := rfl
@[simp] theorem skipIf_result (c : Bool) : (s.skipIf c).result = s.result := rfl
@[simp] theorem skipIf_faults (c : Bool) : (s.skipIf c).faults = s.faults := rfl
@[simp] theorem skipIf_tickOwed (c : Bool) : (s.skipIf c).tickOwed = s.tickOwed := rfl

/-! ### returning -/

@[simp] theorem returning_mem (r : OpResult) : (s.returning r).mem = s.mem := rfl
@[simp] theorem returning_v (r : OpResult) : (s.returning r).v = s.v := rfl
@[simp] theorem returning_i (r : OpResult) : (s.returning r).i = s.i := rfl
@[simp] theorem returning_pc (r : OpResult) : (s.returning r).pc = s.pc := rfl
@[simp] theorem returning_sp (r : OpResult) : (s.returning r).sp = s.sp := rfl
@[simp] theorem returning_stack (r : OpResult) : (s.returning r).stack = s.stack := rfl
@[simp] theorem returning_dt (r : OpResult) : (s.returning r).dt = s.dt := rfl
@[simp] theorem returning_st (r : OpResult) : (s.returning r).st = s.st := rfl
@[simp] theorem returning_fb (r : OpResult) : (s.returning r).fb = s.fb := rfl
@[simp] theorem returning_dirty (r : OpResult) : (s.returning r).dirty = s.dirty := rfl
@[simp] theorem returning_key (r : OpResult) : (s.returning r).key = s.key := rfl
@[simp] theorem returning_cadence (r : OpResult) : (s.returning r).cadence = s.cadence := rfl
@[simp] theorem returning_schedule (r : OpResult) : (s.returning r).schedule = s.schedule := rfl
@[simp] theorem returning_draws (r : OpResult) : (s.returning r).draws = s.draws := rfl
@[simp] theorem returning_result (r : OpResult) : (s.returning r).result = r := rfl
@[simp] theorem returning_faults (r : OpResult) : (s.returning r).faults = s.faults := rfl
@[simp] theorem returning_tickOwed (r : OpResult) : (s.returning r).tickOwed = s.tickOwed := rfl

/-! ### reporting -/

@[simp] theorem reporting_mem (f : Fault) : (s.reporting f).mem = s.mem := rfl
@[simp] theorem reporting_v (f : Fault) : (s.reporting f).v = s.v := rfl
@[simp] theorem reporting_i (f : Fault) : (s.reporting f).i = s.i := rfl
@[simp] theorem reporting_pc (f : Fault) : (s.reporting f).pc = s.pc := rfl
@[simp] theorem reporting_sp (f : Fault) : (s.reporting f).sp = s.sp := rfl
@[simp] theorem reporting_stack (f : Fault) : (s.reporting f).stack = s.stack := rfl
@[simp] theorem reporting_dt (f : Fault) : (s.reporting f).dt = s.dt := rfl
@[simp] theorem reporting_st (f : Fault) : (s.reporting f).st = s.st := rfl
@[simp] theorem reporting_fb (f : Fault) : (s.reporting f).fb = s.fb := rfl
@[simp] theorem reporting_dirty (f : Fault) : (s.reporting f).dirty = s.dirty := rfl
@[simp] theorem reporting_key (f : Fault) : (s.reporting f).key = s.key := rfl
@[simp] theorem reporting_cadence (f : Fault) : (s.reporting f).cadence = s.cadence := rfl
@[simp] theorem reporting_schedule (f : Fault) : (s.reporting f).schedule = s.schedule := rfl
@[simp] theorem reporting_draws (f : Fault) : (s.reporting f).draws = s.draws := rfl
@[simp] theorem reporting_result (f : Fault) : (s.reporting f).result = .fault f := rfl
@[simp] theorem reporting_faults (f : Fault) : (s.reporting f).faults = f :: s.faults := rfl
@[simp] theorem reporting_tickOwed (f : Fault) : (s.reporting f).tickOwed = s.tickOwed := rfl

/-! ### drawn -/

@[simp] theorem drawn_mem : s.drawn.mem = s.mem := rfl
@[simp] theorem drawn_v : s.drawn.v = s.v := rfl
@[simp] theorem drawn_i : s.drawn.i = s.i := rfl
@[simp] theorem drawn_pc : s.drawn.pc = s.pc := rfl
@[simp] theorem drawn_sp : s.drawn.sp = s.sp := rfl
@[simp] theorem drawn_stack : s.drawn.stack = s.stack := rfl
@[simp] theorem drawn_dt : s.drawn.dt = s.dt := rfl
@[simp] theorem drawn_st : s.drawn.st = s.st := rfl
@[simp] theorem drawn_fb : s.drawn.fb = s.fb := rfl
@[simp] theorem drawn_dirty : s.drawn.dirty = s.dirty := rfl
@[simp] theorem drawn_key : s.drawn.key = s.key := rfl
@[simp] theorem drawn_cadence : s.drawn.cadence = s.cadence := rfl
@[simp] theorem drawn_schedule : s.drawn.schedule = s.schedule := rfl
@[simp] theorem drawn_draws : s.drawn.draws = s.draws + 1 := rfl
@[simp] theorem drawn_result : s.drawn.result = s.result := rfl
@[simp] theorem drawn_faults : s.drawn.faults = s.faults := rfl
@[simp] theorem drawn_tickOwed : s.drawn.tickOwed = s.tickOwed := rfl

/-! ### setFirstRegs -/

@[simp] theorem setFirstRegs_mem (bs : List Byte) : (s.setFirstRegs bs).mem = s.mem := rfl
@[simp] theorem setFirstRegs_v (bs : List Byte) : (s.setFirstRegs bs).v = setRegsFrom s.v 0 bs := rfl
@[simp] theorem setFirstRegs_i (bs : List Byte) : (s.setFirstRegs bs).i = s.i := rfl
@[simp] theorem setFirstRegs_pc (bs : List Byte) : (s.setFirstRegs bs).pc = s.pc := rfl
@[simp] theorem setFirstRegs_sp (bs : List Byte) : (s.setFirstRegs bs).sp = s.sp := rfl
@[simp] theorem setFirstRegs_stack (bs : List Byte) : (s.setFirstRegs bs).stack = s.stack := rfl
@[simp] theorem setFirstRegs_dt (bs : List Byte) : (s.setFirstRegs bs).dt = s.dt := rfl
@[simp] theorem setFirstRegs_st (bs : List Byte) : (s.setFirstRegs bs).st = s.st := rfl
@[simp] theorem setFirstRegs_fb (bs : List Byte) : (s.setFirstRegs bs).fb = s.fb := rfl
@[simp] theorem setFirstRegs_dirty (bs : List Byte) : (s.setFirstRegs bs).dirty = s.dirty := rfl
@[simp] theorem setFirstRegs_key (bs : List Byte) : (s.setFirstRegs bs).key = s.key := rfl
@[simp] theorem setFirstRegs_cadence (bs : List Byte) : (s.setFirstRegs bs).cadence = s.cadence := rfl
@[simp] theorem setFirstRegs_schedule (bs : List Byte) : (s.setFirstRegs bs).schedule = s.schedule := rfl
@[simp] theorem setFirstRegs_draws (bs : List Byte) : (s.setFirstRegs bs).draws = s.draws := rfl
@[simp] theorem setFirstRegs_result (bs : List Byte) : (s.setFirstRegs bs).result = s.result := rfl
@[simp] theorem setFirstRegs_faults (bs : List Byte) : (s.setFirstRegs bs).faults = s.faults := rfl
@[simp] theorem setFirstRegs_tickOwed (bs : List Byte) : (s.setFirstRegs bs).tickOwed = s.tickOwed := rfl

/-! ### tick -/

@[simp] theorem tick_mem : s.tick.mem = s.mem := rfl
@[simp] theorem tick_v : s.tick.v = s.v := rfl
@[simp] theorem tick_i : s.tick.i = s.i := rfl
@[simp] theorem tick_pc : s.tick.pc = s.pc := rfl
@[simp] theorem tick_sp : s.tick.sp = s.sp := rfl
@[simp] theorem tick_stack : s.tick.stack = s.stack := rfl
@[simp] theorem tick_dt : s.tick.dt = countDown s.dt := rfl
@[simp] theorem tick_st : s.tick.st = countDown s.st := rfl
@[simp] theorem tick_fb : s.tick.fb = s.fb := rfl
@[simp] theorem tick_dirty : s.tick.dirty = s.dirty := rfl
@[simp] theorem tick_key : s.tick.key = s.key := rfl
@[simp] theorem tick_cadence : s.tick.cadence = s.cadence := rfl
@[simp] theorem tick_schedule : s.tick.schedule = s.schedule := rfl
@[simp] theorem tick_draws : s.tick.draws = s.draws := rfl
@[simp] theorem tick_result : s.tick.result = s.result := rfl
@[simp] theorem tick_faults : s.tick.faults = s.faults := rfl
@[simp] theorem tick_tickOwed : s.tick.tickOwed = s.tickOwed := rfl

/-! ### stepBegun -/

@[simp] theorem stepBegun_mem : s.stepBegun.mem = s.mem := rfl
@[simp] theorem stepBegun_v : s.stepBegun.v = s.v := rfl
@[simp] theorem stepBegun_i : s.stepBegun.i = s.i := rfl
@[simp] theorem stepBegun_pc : s.stepBegun.pc = s.pc := rfl
@[simp] theorem stepBegun_sp : s.stepBegun.sp = s.sp := rfl
@[simp] theorem stepBegun_stack : s.stepBegun.stack = s.stack := rfl
@[simp] theorem stepBegun_dt : s.stepBegun.dt = s.dt := rfl
@[simp] theorem stepBegun_st : s.stepBegun.st = s.st := rfl
@[simp] theorem stepBegun_fb : s.stepBegun.fb = s.fb := rfl
@[simp] theorem stepBegun_dirty : s.stepBegun.dirty = s.dirty := rfl
@[simp] theorem stepBegun_key : s.stepBegun.key = s.key := rfl
@[simp] theorem stepBegun_cadence : s.stepBegun.cadence = s.cadence := rfl
@[simp] theorem stepBegun_schedule : s.stepBegun.schedule = s.schedule := rfl
@[simp] theorem stepBegun_draws : s.stepBegun.draws = s.draws := rfl
@[simp] theorem stepBegun_result : s.stepBegun.result = s.result := rfl
@[simp] theorem stepBegun_faults : s.stepBegun.faults = s.faults := rfl
@[simp] theorem stepBegun_tickOwed : s.stepBegun.tickOwed = owesTick s.cadence := rfl

/-! ### tickPaid -/

@[simp] theorem tickPaid_mem : s.tickPaid.mem = s.mem := rfl
@[simp] theorem tickPaid_v : s.tickPaid.v = s.v := rfl
@[simp] theorem tickPaid_i : s.tickPaid.i = s.i := rfl
@[simp] theorem tickPaid_pc : s.tickPaid.pc = s.pc := rfl
@[simp] theorem tickPaid_sp : s.tickPaid.sp = s.sp := rfl
@[simp] theorem tickPaid_stack : s.tickPaid.stack = s.stack := rfl
@[simp] theorem tickPaid_dt : s.tickPaid.dt = s.dt := rfl
@[simp] theorem tickPaid_st : s.tickPaid.st = s.st := rfl
@[simp] theorem tickPaid_fb : s.tickPaid.fb = s.fb := rfl
@[simp] theorem tickPaid_dirty : s.tickPaid.dirty = s.dirty := rfl
@[simp] theorem tickPaid_key : s.tickPaid.key = s.key := rfl
@[simp] theorem tickPaid_cadence : s.tickPaid.cadence = s.cadence := rfl
@[simp] theorem tickPaid_schedule : s.tickPaid.schedule = s.schedule := rfl
@[simp] theorem tickPaid_draws : s.tickPaid.draws = s.draws := rfl
@[simp] theorem tickPaid_result : s.tickPaid.result = s.result := rfl
@[simp] theorem tickPaid_faults : s.tickPaid.faults = s.faults := rfl
@[simp] theorem tickPaid_tickOwed : s.tickPaid.tickOwed = false := rfl

/-! ### setKey -/

@[simp] theorem setKey_mem (k : Key) (down : Bool) : (s.setKey k down).mem = s.mem := rfl
@[simp] theorem setKey_v (k : Key) (down : Bool) : (s.setKey k down).v = s.v := rfl
@[simp] theorem setKey_i (k : Key) (down : Bool) : (s.setKey k down).i = s.i := rfl
@[simp] theorem setKey_pc (k : Key) (down : Bool) : (s.setKey k down).pc = s.pc := rfl
@[simp] theorem setKey_sp (k : Key) (down : Bool) : (s.setKey k down).sp = s.sp := rfl
@[simp] theorem setKey_stack (k : Key) (down : Bool) : (s.setKey k down).stack = s.stack := rfl
@[simp] theorem setKey_dt (k : Key) (down : Bool) : (s.setKey k down).dt = s.dt := rfl
@[simp] theorem setKey_st (k : Key) (down : Bool) : (s.setKey k down).st = s.st := rfl
@[simp] theorem setKey_fb (k : Key) (down : Bool) : (s.setKey k down).fb = s.fb := rfl
@[simp] theorem setKey_dirty (k : Key) (down : Bool) : (s.setKey k down).dirty = s.dirty := rfl
@[simp] theorem setKey_key (k : Key) (down : Bool) : (s.setKey k down).key = s.key.set k.val down := rfl
@[simp] theorem setKey_cadence (k : Key) (down : Bool) : (s.setKey k down).cadence = s.cadence := rfl
@[simp] theorem setKey_schedule (k : Key) (down : Bool) : (s.setKey k down).schedule = s.schedule := rfl
@[simp] theorem setKey_draws (k : Key) (down : Bool) : (s.setKey k down).draws = s.draws := rfl
@[simp] theorem setKey_result (k : Key) (down : Bool) : (s.setKey k down).result = s.result := rfl
@[simp] theorem setKey_faults (k : Key) (down : Bool) : (s.setKey k down).faults = s.faults := rfl
@[simp] theorem setKey_tickOwed (k : Key) (down : Bool) : (s.setKey k down).tickOwed = s.tickOwed := rfl

/-! ### clearDirty -/

@[simp] theorem clearDirty_mem : s.clearDirty.mem = s.mem := rfl
@[simp] theorem clearDirty_v : s.clearDirty.v = s.v := rfl
@[simp] theorem clearDirty_i : s.clearDirty.i = s.i := rfl
@[simp] theorem clearDirty_pc : s.clearDirty.pc = s.pc := rfl
@[simp] theorem clearDirty_sp : s.clearDirty.sp = s.sp := rfl
@[simp] theorem clearDirty_stack : s.clearDirty.stack = s.stack := rfl
@[simp] theorem clearDirty_dt : s.clearDirty.dt = s.dt := rfl
@[simp] theorem clearDirty_st : s.clearDirty.st = s.st := rfl
@[simp] theorem clearDirty_fb : s.clearDirty.fb = s.fb := rfl
@[simp] theorem clearDirty_dirty : s.clearDirty.dirty = false := rfl
@[simp] theorem clearDirty_key : s.clearDirty.key = s.key := rfl
@[simp] theorem clearDirty_cadence : s.clearDirty.cadence = s.cadence := rfl
@[simp] theorem clearDirty_schedule : s.clearDirty.schedule = s.schedule := rfl
@[simp] theorem clearDirty_draws : s.clearDirty.draws = s.draws := rfl
@[simp] theorem clearDirty_result : s.clearDirty.result = s.result := rfl
@[simp] theorem clearDirty_faults : s.clearDirty.faults = s.faults := rfl
@[simp] theorem clearDirty_tickOwed : s.clearDirty.tickOwed = s.tickOwed := rfl

/-! ### init -/

@[simp] theorem init_mem : s.init.mem = s.mem := rfl
@[simp] theorem init_v : s.init.v = Vector.replicate 16 0 := rfl
@[simp] theorem init_i : s.init.i = 0 := rfl
@[simp] theorem init_pc : s.init.pc = 512 := rfl
@[simp] theorem init_sp : s.init.sp = 0 := rfl
@[simp] theorem init_stack : s.init.stack = Vector.replicate 16 0 := rfl
@[simp] theorem init_dt : s.init.dt = 0 := rfl
@[simp] theorem init_st : s.init.st = 0 := rfl
@[simp] theorem init_fb : s.init.fb = Framebuffer.clear := rfl
@[simp] theorem init_dirty : s.init.dirty = false := rfl
@[simp] theorem init_key : s.init.key = Vector.replicate 16 false := rfl
@[simp] theorem init_cadence : s.init.cadence = s.cadence := rfl
@[simp] theorem init_schedule : s.init.schedule = s.schedule := rfl
@[simp] theorem init_draws : s.init.draws = s.draws := rfl
@[simp] theorem init_result : s.init.result = s.result := rfl
@[simp] theorem init_faults : s.init.faults = s.faults := rfl
@[simp] theorem init_tickOwed : s.init.tickOwed = s.tickOwed := rfl

/-! ### loadMasked -/

/-- It is a register write. -/
@[simp] theorem loadMasked_eq (x : Reg) (nn r : Byte) : s.loadMasked x nn r = s.setV x (r &&& nn) := rfl

end Sys2Proof.Machine.State
end

