-- ==== Sys2Proof/Laws/Registers.lean ====
section
/-! SUPPORT. The laws of the register accessors and of the flags. -/

namespace Sys2Proof.Machine

open Sys2Proof

variable {s : State}

/-- What writing one register does to every read. -/
theorem State.V_setV (r q : Reg) (b : Byte) : (s.setV r b).V q = if q = r then b else s.V q := by
  by_cases h : q = r
  · subst h; simp [State.V, State.setV]
  · have h' : r.val ≠ q.val := fun e => h (Fin.ext e.symm)
    simp only [State.V, State.setV, h, if_false]
    exact Vector.getElem_set_ne r.isLt q.isLt h'

@[simp] theorem State.V_setV_same (r : Reg) (b : Byte) : (s.setV r b).V r = b := by simp [State.V_setV]

theorem State.V_setV_other {r q : Reg} (h : q ≠ r) (b : Byte) : (s.setV r b).V q = s.V q := by
  simp [State.V_setV, h]

/-- An update that keeps the register file keeps every read. -/
theorem State.V_congr {t : State} (h : t.v = s.v) (r : Reg) : t.V r = s.V r := by simp [State.V, h]

@[simp] theorem State.V_advance (r : Reg) : s.advance.V r = s.V r := rfl
@[simp] theorem State.V_jumpTo (a : Word) (r : Reg) : (s.jumpTo a).V r = s.V r := rfl
@[simp] theorem State.V_skipIf (c : Bool) (r : Reg) : (s.skipIf c).V r = s.V r := rfl
@[simp] theorem State.V_returning (x : OpResult) (r : Reg) : (s.returning x).V r = s.V r := rfl
@[simp] theorem State.V_reporting (f : Fault) (r : Reg) : (s.reporting f).V r = s.V r := rfl
@[simp] theorem State.V_drawn (r : Reg) : s.drawn.V r = s.V r := rfl
@[simp] theorem State.V_tick (r : Reg) : s.tick.V r = s.V r := rfl

/-- What an ascending register load does to every register. -/
theorem getElem_setRegsFrom (bs : List Byte) (v : Vector Byte 16) (i j : Nat) (hj : j < 16) :
    (setRegsFrom v i bs)[j] = if h : i ≤ j ∧ j - i < bs.length then bs[j - i]'h.2 else v[j] := by
  induction bs generalizing v i with
  | nil => simp [setRegsFrom]
  | cons b rest ih =>
    rw [setRegsFrom, ih]
    by_cases hij : j = i
    · subst hij; simp
    · by_cases h : i + 1 ≤ j ∧ j - (i + 1) < rest.length
      · have h' : i ≤ j ∧ j - i < (b :: rest).length := by simp only [List.length_cons]; omega
        obtain ⟨k, hk⟩ : ∃ k, j - i = k + 1 := ⟨j - i - 1, by omega⟩
        rw [dif_pos h, dif_pos h']
        simp only [hk, List.getElem_cons_succ]
        congr 1
        omega
      · have h' : ¬(i ≤ j ∧ j - i < (b :: rest).length) := by simp only [List.length_cons]; omega
        rw [dif_neg h, dif_neg h']
        exact Vector.getElem_setIfInBounds_ne hj (fun e => hij e.symm)

/-- What FX65's register write does to every register. -/
theorem State.V_setFirstRegs (bs : List Byte) (r : Reg) :
    (s.setFirstRegs bs).V r = if h : r.val < bs.length then bs[r.val] else s.V r := by
  have := getElem_setRegsFrom bs s.v 0 r.val r.isLt
  simpa [State.V, State.setFirstRegs] using this

@[simp] theorem State.length_firstRegs (x : Reg) : (s.firstRegs x).length = x.val + 1 := by
  simp [State.firstRegs]

/-- FX55 stores V[j] as its j-th byte. -/
theorem State.getElem_firstRegs (x : Reg) (j : Nat) (h : j < (s.firstRegs x).length) :
    (s.firstRegs x)[j] = s.V ⟨j, by simp at h; omega⟩ := by
  simp [State.firstRegs, State.V]

/-- What writing one key does to every key. -/
theorem State.keyDown_setKey (k q : Key) (down : Bool) :
    (s.setKey k down).keyDown q = if q = k then down else s.keyDown q := by
  by_cases h : q = k
  · subst h; simp [State.keyDown, State.setKey]
  · have h' : k.val ≠ q.val := fun e => h (Fin.ext e.symm)
    simp only [State.keyDown, State.setKey, h, if_false]
    exact Vector.getElem_set_ne k.isLt q.isLt h'

/-- The address of the k-th byte of a transfer. -/
theorem State.dataAddr_eq (k : Nat) : s.dataAddr k = s.i.toNat + k := rfl

/-- When the k bytes from I lie in memory. -/
theorem State.dataInRange_iff (k : Nat) : s.dataInRange k ↔ s.i.toNat + k ≤ 4096 := Iff.rfl

@[simp] theorem flagOf_true : flagOf true = 1 := rfl
@[simp] theorem flagOf_false : flagOf false = 0 := rfl

end Sys2Proof.Machine
end

