-- ==== Sys2Proof/Laws/Ops.lean ====
section
/-! SUPPORT. One lemma per shared operation of Machine/Ops.lean: everything it can answer. -/

namespace Sys2Proof.Machine

open Sys2Proof

variable {s t : State}

/-- A raised fault is a next state, the one it was raised at with the record reported. -/
@[simp] theorem raise_eq (f : Fault) : raise f s = .next (s.reporting f) := rfl

/-- The faults that end a run are those of R201 but DecodeFault (1) and LoadTooLarge (7). -/
theorem Fault.endsRun_iff (f : Fault) : f.endsRun = true ↔ f.code ≠ 1 ∧ f.code ≠ 7 := by
  cases f <;> simp [Fault.endsRun, Fault.code]

/-! ### The call stack -/

/-- Everything a push can do. -/
theorem State.push_cases (a : Word) :
    (s.sp.val = 16 ∧ s.push a = none) ∨
    ∃ h : s.sp.val < 16,
      s.push a = some { s with stack := s.stack.set s.sp.val a h, sp := ⟨s.sp.val + 1, by omega⟩ } := by
  by_cases h : s.sp.val < 16
  · exact .inr ⟨h, dif_pos h⟩
  · exact .inl ⟨by omega, dif_neg h⟩

/-- Everything a pop can do. -/
theorem State.pop_cases :
    (s.sp.val = 0 ∧ s.pop = none) ∨
    ∃ _h : s.sp.val ≠ 0,
      s.pop = some (s.stack[s.sp.val - 1]'(by omega), { s with sp := ⟨s.sp.val - 1, by omega⟩ }) := by
  by_cases h : s.sp.val = 0
  · exact .inl ⟨h, dif_pos h⟩
  · exact .inr ⟨h, dif_neg h⟩

/-- A pop after a push gives back the address and the SP, and leaves the entry in place (10_state.md R28). -/
theorem State.pop_push {a : Word} (h : s.push a = some t) :
    t.pop = some (a, { t with sp := s.sp }) := by
  rcases State.push_cases (s := s) a with ⟨-, hn⟩ | ⟨hlt, hs⟩
  · rw [hn] at h; cases h
  · rw [hs] at h
    cases h
    simp [State.pop]

/-! ### The key latch -/

/-- A key index is a register value of at most 15. -/
theorem keyOf_eq_none {b : Byte} : keyOf b = none ↔ 15 < b.toNat := by
  unfold keyOf
  split <;> simp <;> omega

theorem keyOf_eq_some {b : Byte} {k : Key} : keyOf b = some k ↔ b.toNat = k.val := by
  unfold keyOf
  split
  · simp [Fin.ext_iff]
  · have := k.isLt
    simp only [reduceCtorEq, false_iff]
    omega

theorem allKeys_eq : allKeys = List.finRange 16 := by decide

/-- No key is found exactly when none is down. -/
theorem State.leastKeyDown_eq_none : s.leastKeyDown = none ↔ ∀ k, s.keyDown k = false := by
  simp [State.leastKeyDown, allKeys_eq]

/-- The key found is down and every smaller one is up (44_input_timers.md R173). -/
theorem State.leastKeyDown_eq_some {k : Key} :
    s.leastKeyDown = some k ↔ s.keyDown k = true ∧ ∀ j < k, s.keyDown j = false := by
  constructor
  · intro h
    rw [State.leastKeyDown, List.find?_eq_some_iff_getElem] at h
    obtain ⟨hk, n, hn, he, hlt⟩ := h
    have hn' : n < 16 := by simpa [allKeys_eq] using hn
    have hkn : k = ⟨n, hn'⟩ := by
      rw [← he]
      simp [allKeys_eq]
    refine ⟨hk, fun j hj => ?_⟩
    have := hlt j.val (by rw [hkn] at hj; exact hj)
    simpa [allKeys_eq] using this
  · rintro ⟨hk, hlt⟩
    cases h : s.leastKeyDown with
    | none => rw [State.leastKeyDown_eq_none] at h; simp [h k] at hk
    | some j =>
      rw [State.leastKeyDown, List.find?_eq_some_iff_getElem] at h
      obtain ⟨hj, n, hn, he, hl⟩ := h
      have hn' : n < 16 := by simpa [allKeys_eq] using hn
      have hjn : j = ⟨n, hn'⟩ := by rw [← he]; simp [allKeys_eq]
      rcases lt_trichotomy j k with h | h | h
      · simp [hlt j h] at hj
      · rw [h]
      · have := hl k.val (by rw [hjn] at h; exact h)
        simp [allKeys_eq, hk] at this

/-! ### The decrement of a timer -/

/-- A timer loses 1 while above 0 and stays at 0 (60_exceptions.md R212). -/
theorem countDown_toNat (b : Byte) : (countDown b).toNat = b.toNat - 1 := by
  unfold countDown
  split <;> bv_omega

end Sys2Proof.Machine
end

