-- ==== Sys2Proof/Laws/PerInstr.lean ====
section
/-! SUPPORT. The per-instruction family EncodeRow: an instruction's opcode matches its row of opcode_table.json. -/

namespace Sys2Proof.Laws.EncodeRow

open Sys2Proof

/-- The opcode agrees with the row's match on the row's mask. -/
def Statement (i : Instr) : Prop := encode i &&& i.row.mask = i.row.pattern

/-! ### The layouts under the table's masks -/

theorem formatNNN_masked (h : BitVec 4) (nnn : Addr12) : formatNNN h nnn &&& 0xF000#16 = h ++ 0x000#12 := by
  show (h ++ nnn) &&& (0xF#4 ++ 0x000#12) = _
  rw [BitVec.and_append, show (0xF#4 : BitVec 4) = BitVec.allOnes 4 from rfl, BitVec.and_allOnes, BitVec.and_zero]

theorem formatXNN_masked (h : BitVec 4) (x : Reg) (nn : Byte) : formatXNN h x nn &&& 0xF000#16 = (h ++ 0x0#4) ++ 0x00#8 := by
  show ((h ++ regBits x) ++ nn) &&& ((0xF#4 ++ 0x0#4) ++ 0x00#8) = _
  rw [BitVec.and_append, BitVec.and_append, show (0xF#4 : BitVec 4) = BitVec.allOnes 4 from rfl, BitVec.and_allOnes,
    BitVec.and_zero, BitVec.and_zero]

theorem formatX_masked (h : BitVec 4) (x : Reg) (nn : Byte) : formatXNN h x nn &&& 0xF0FF#16 = (h ++ 0x0#4) ++ nn := by
  show ((h ++ regBits x) ++ nn) &&& ((0xF#4 ++ 0x0#4) ++ 0xFF#8) = _
  rw [BitVec.and_append, BitVec.and_append, show (0xF#4 : BitVec 4) = BitVec.allOnes 4 from rfl, BitVec.and_allOnes,
    show (0xFF#8 : BitVec 8) = BitVec.allOnes 8 from rfl, BitVec.and_allOnes, BitVec.and_zero]

/-- A mask that keeps the family and drops x acts on the low byte alone. -/
theorem formatXYN_masked_high (h low : BitVec 4) (x y : Reg) (m : BitVec 8) :
    formatXYN h x y low &&& ((0xF#4 ++ 0x0#4) ++ m) = (h ++ 0x0#4) ++ ((regBits y ++ low) &&& m) := by
  have high8 : (h ++ regBits x) &&& (0xF#4 ++ 0x0#4) = h ++ 0x0#4 := by
    rw [BitVec.and_append, BitVec.and_zero, show (0xF#4 : BitVec 4) = BitVec.allOnes 4 from rfl, BitVec.and_allOnes]
  rw [← high8]
  exact BitVec.and_append

theorem formatXY_masked (h low : BitVec 4) (x y : Reg) :
    formatXYN h x y low &&& 0xF00F#16 = (h ++ 0x0#4) ++ (0x0#4 ++ low) := by
  have low8 : (regBits y ++ low) &&& (0x0#4 ++ 0xF#4) = 0x0#4 ++ low := by
    rw [BitVec.and_append, BitVec.and_zero, show (0xF#4 : BitVec 4) = BitVec.allOnes 4 from rfl, BitVec.and_allOnes]
  rw [← low8]
  exact formatXYN_masked_high h low x y (0x0#4 ++ 0xF#4)

theorem formatXYN_masked (h low : BitVec 4) (x y : Reg) :
    formatXYN h x y low &&& 0xF000#16 = (h ++ 0x0#4) ++ (0x0#4 ++ 0x0#4) := by
  have low8 : (regBits y ++ low) &&& (0x0#4 ++ 0x0#4) = 0x0#4 ++ 0x0#4 := by
    rw [BitVec.and_append, BitVec.and_zero, BitVec.and_zero]
  rw [← low8]
  exact formatXYN_masked_high h low x y (0x0#4 ++ 0x0#4)

/-! ### One lemma per instruction -/

theorem op00E0 : Statement .op00E0 := by unfold Statement; decide
theorem op00EE : Statement .op00EE := by unfold Statement; decide
theorem op1NNN (nnn : Addr12) : Statement (.op1NNN nnn) := formatNNN_masked _ _
theorem op2NNN (nnn : Addr12) : Statement (.op2NNN nnn) := formatNNN_masked _ _
theorem op3XNN (x : Reg) (nn : Byte) : Statement (.op3XNN x nn) := formatXNN_masked _ _ _
theorem op4XNN (x : Reg) (nn : Byte) : Statement (.op4XNN x nn) := formatXNN_masked _ _ _
theorem op5XY0 (x y : Reg) : Statement (.op5XY0 x y) := formatXY_masked _ _ _ _
theorem op6XNN (x : Reg) (nn : Byte) : Statement (.op6XNN x nn) := formatXNN_masked _ _ _
theorem op7XNN (x : Reg) (nn : Byte) : Statement (.op7XNN x nn) := formatXNN_masked _ _ _
theorem op8XY0 (x y : Reg) : Statement (.op8XY0 x y) := formatXY_masked _ _ _ _
theorem op8XY1 (x y : Reg) : Statement (.op8XY1 x y) := formatXY_masked _ _ _ _
theorem op8XY2 (x y : Reg) : Statement (.op8XY2 x y) := formatXY_masked _ _ _ _
theorem op8XY3 (x y : Reg) : Statement (.op8XY3 x y) := formatXY_masked _ _ _ _
theorem op8XY4 (x y : Reg) : Statement (.op8XY4 x y) := formatXY_masked _ _ _ _
theorem op8XY5 (x y : Reg) : Statement (.op8XY5 x y) := formatXY_masked _ _ _ _
theorem op8XY6 (x y : Reg) : Statement (.op8XY6 x y) := formatXY_masked _ _ _ _
theorem op8XY7 (x y : Reg) : Statement (.op8XY7 x y) := formatXY_masked _ _ _ _
theorem op8XYE (x y : Reg) : Statement (.op8XYE x y) := formatXY_masked _ _ _ _
theorem op9XY0 (x y : Reg) : Statement (.op9XY0 x y) := formatXY_masked _ _ _ _
theorem opANNN (nnn : Addr12) : Statement (.opANNN nnn) := formatNNN_masked _ _
theorem opBNNN (nnn : Addr12) : Statement (.opBNNN nnn) := formatNNN_masked _ _
theorem opCXNN (x : Reg) (nn : Byte) : Statement (.opCXNN x nn) := formatXNN_masked _ _ _
theorem opDXYN (x y : Reg) (n : Nat) : Statement (.opDXYN x y n) := formatXYN_masked _ _ _ _
theorem opEX9E (x : Reg) : Statement (.opEX9E x) := formatX_masked _ _ _
theorem opEXA1 (x : Reg) : Statement (.opEXA1 x) := formatX_masked _ _ _
theorem opFX07 (x : Reg) : Statement (.opFX07 x) := formatX_masked _ _ _
theorem opFX0A (x : Reg) : Statement (.opFX0A x) := formatX_masked _ _ _
theorem opFX15 (x : Reg) : Statement (.opFX15 x) := formatX_masked _ _ _
theorem opFX18 (x : Reg) : Statement (.opFX18 x) := formatX_masked _ _ _
theorem opFX1E (x : Reg) : Statement (.opFX1E x) := formatX_masked _ _ _
theorem opFX29 (x : Reg) : Statement (.opFX29 x) := formatX_masked _ _ _
theorem opFX33 (x : Reg) : Statement (.opFX33 x) := formatX_masked _ _ _
theorem opFX55 (x : Reg) : Statement (.opFX55 x) := formatX_masked _ _ _
theorem opFX65 (x : Reg) : Statement (.opFX65 x) := formatX_masked _ _ _

end Sys2Proof.Laws.EncodeRow
end

