-- ==== Sys2Proof/Laws/Screen.lean ====
section
/-! SUPPORT. The laws of the framebuffer: one pixel, one toggle, one row, a whole sprite. -/

namespace Sys2Proof.Machine

open Sys2Proof

/-- What writing one pixel does to every pixel. -/
theorem Framebuffer.pixel_setPixel (f : Framebuffer) (px qx : Fin 64) (py qy : Fin 32) (lit : Bool) :
    (f.setPixel px py lit).pixel qx qy = if qx = px ∧ qy = py then lit else f.pixel qx qy := by
  by_cases hx : qx = px
  · subst hx
    by_cases hy : qy = py
    · subst hy; simp [setPixel, pixel]
    · have : py.val ≠ qy.val := fun e => hy (Fin.ext e.symm)
      simp only [setPixel, pixel, hy, and_false, if_false]
      simp [this]
  · have : px.val ≠ qx.val := fun e => hx (Fin.ext e.symm)
    simp only [setPixel, pixel, hx, false_and, if_false]
    simp [this]

/-- A clear screen has every pixel 0. -/
@[simp] theorem Framebuffer.pixel_clear (px : Fin 64) (py : Fin 32) : Framebuffer.clear.pixel px py = false := by
  simp [Framebuffer.clear, Framebuffer.pixel]

/-- Two framebuffers with equal pixels are equal. -/
theorem Framebuffer.ext_pixel {f g : Framebuffer} (h : ∀ px py, f.pixel px py = g.pixel px py) : f = g := by
  apply Vector.ext
  intro x hx
  apply Vector.ext
  intro y hy
  exact h ⟨x, hx⟩ ⟨y, hy⟩

/-- A toggle flips its pixel and no other. -/
theorem Drawing.pixel_toggle (d : Drawing) (px qx : Fin 64) (py qy : Fin 32) :
    (d.toggle px py).fb.pixel qx qy = (d.fb.pixel qx qy ^^ decide (qx = px ∧ qy = py)) := by
  simp only [Drawing.toggle, Framebuffer.pixel_setPixel]
  by_cases h : qx = px ∧ qy = py
  · obtain ⟨rfl, rfl⟩ := h; simp
  · simp [h]

theorem Drawing.collided_toggle (d : Drawing) (px : Fin 64) (py : Fin 32) :
    (d.toggle px py).collided = (d.collided || d.fb.pixel px py) := rfl

/-! ### One row -/

/-- A row's step on one column, as `Drawing.drawRow` folds it. -/
theorem Drawing.drawRow_eq (d : Drawing) (cx cy : Byte) (r : Nat) (row : Byte) :
    d.drawRow cx cy r row = (List.range 8).foldl
      (fun d c => if row.getLsbD (7 - c) then d.toggle (wrapX cx c) (wrapY cy r) else d) d := rfl

/-- Eight columns are distinct mod 64 (40_display.md R103). -/
theorem wrapX_injective {cx : Byte} {c c' : Nat} (h : c < 64) (h' : c' < 64) (e : wrapX cx c = wrapX cx c') : c = c' := by
  have := congrArg Fin.val e
  simp only [wrapX] at this
  omega

/-- Up to 32 rows are distinct mod 32 (40_display.md R103). -/
theorem wrapY_injective {cy : Byte} {r r' : Nat} (h : r < 32) (h' : r' < 32) (e : wrapY cy r = wrapY cy r') : r = r' := by
  have := congrArg Fin.val e
  simp only [wrapY] at this
  omega

/-- What drawing one row does to the pixels and to the collision, by columns from the left. -/
theorem Drawing.foldColumns (d : Drawing) (cx cy : Byte) (r : Nat) (row : Byte) (k : Nat) (hk : k ≤ 64) :
    let e := (List.range k).foldl
      (fun d c => if row.getLsbD (7 - c) then d.toggle (wrapX cx c) (wrapY cy r) else d) d
    (∀ px py, e.fb.pixel px py = (d.fb.pixel px py ^^
      decide (∃ c < k, row.getLsbD (7 - c) = true ∧ px = wrapX cx c ∧ py = wrapY cy r))) ∧
    (e.collided = true ↔ d.collided = true ∨
      ∃ c < k, row.getLsbD (7 - c) = true ∧ d.fb.pixel (wrapX cx c) (wrapY cy r) = true) := by
  induction k with
  | zero => simp
  | succ k ih =>
    obtain ⟨hp, hc⟩ := ih (by omega)
    simp only [List.range_succ, List.foldl_append, List.foldl_cons, List.foldl_nil]
    generalize hd : (List.range k).foldl
      (fun d c => if row.getLsbD (7 - c) then d.toggle (wrapX cx c) (wrapY cy r) else d) d = e at hp hc ⊢
    by_cases hb : row.getLsbD (7 - k) = true
    · simp only [hb, if_true]
      have fresh : e.fb.pixel (wrapX cx k) (wrapY cy r) = d.fb.pixel (wrapX cx k) (wrapY cy r) := by
        rw [hp, decide_eq_false, Bool.xor_false]
        rintro ⟨c, hck, -, hx, -⟩
        have := wrapX_injective (by omega) (by omega) hx
        omega
      constructor
      · intro px py
        rw [Drawing.pixel_toggle, hp, Bool.xor_assoc]
        congr 1
        by_cases hq : px = wrapX cx k ∧ py = wrapY cy r
        · have hno : ¬∃ c < k, row.getLsbD (7 - c) = true ∧ px = wrapX cx c ∧ py = wrapY cy r := by
            rintro ⟨c, hck, -, hx, -⟩
            have := wrapX_injective (by omega) (by omega) (hq.1.symm.trans hx)
            omega
          have hyes : ∃ c < k + 1, row.getLsbD (7 - c) = true ∧ px = wrapX cx c ∧ py = wrapY cy r :=
            ⟨k, by omega, hb, hq⟩
          rw [decide_eq_false hno, decide_eq_true hq, decide_eq_true hyes]
          rfl
        · rw [decide_eq_false hq, Bool.xor_false, decide_eq_decide]
          constructor
          · rintro ⟨c, hck, h⟩; exact ⟨c, by omega, h⟩
          · rintro ⟨c, hck, hbit, hx, hy⟩
            rcases Nat.lt_succ_iff_lt_or_eq.mp hck with h | rfl
            · exact ⟨c, h, hbit, hx, hy⟩
            · exact absurd ⟨hx, hy⟩ hq
      · rw [Drawing.collided_toggle, Bool.or_eq_true, hc, fresh, or_assoc]
        apply or_congr Iff.rfl
        constructor
        · rintro (⟨c, hck, h⟩ | h)
          · exact ⟨c, by omega, h⟩
          · exact ⟨k, by omega, hb, h⟩
        · rintro ⟨c, hck, h⟩
          rcases Nat.lt_succ_iff_lt_or_eq.mp hck with h' | rfl
          · exact .inl ⟨c, h', h⟩
          · exact .inr h.2
    · simp only [hb]
      constructor
      · intro px py
        rw [if_neg (by simp), hp]
        congr 1
        rw [decide_eq_decide]
        constructor
        · rintro ⟨c, hck, h⟩; exact ⟨c, by omega, h⟩
        · rintro ⟨c, hck, h⟩
          rcases Nat.lt_succ_iff_lt_or_eq.mp hck with h' | rfl
          · exact ⟨c, h', h⟩
          · exact absurd h.1 hb
      · rw [if_neg (by simp), hc]
        apply or_congr Iff.rfl
        constructor
        · rintro ⟨c, hck, h⟩; exact ⟨c, by omega, h⟩
        · rintro ⟨c, hck, h⟩
          rcases Nat.lt_succ_iff_lt_or_eq.mp hck with h' | rfl
          · exact ⟨c, h', h⟩
          · exact absurd h.1 hb

/-- What drawing one row does to every pixel. -/
theorem Drawing.pixel_drawRow (d : Drawing) (cx cy : Byte) (r : Nat) (row : Byte) (px : Fin 64) (py : Fin 32)
    [Decidable (∃ c < 8, row.getLsbD (7 - c) = true ∧ px = wrapX cx c ∧ py = wrapY cy r)] :
    (d.drawRow cx cy r row).fb.pixel px py = (d.fb.pixel px py ^^
      decide (∃ c < 8, row.getLsbD (7 - c) = true ∧ px = wrapX cx c ∧ py = wrapY cy r)) := by
  rw [Drawing.drawRow_eq, (d.foldColumns cx cy r row 8 (by omega)).1 px py, decide_eq_decide.mpr Iff.rfl]

/-- When drawing one row collides. -/
theorem Drawing.collided_drawRow (d : Drawing) (cx cy : Byte) (r : Nat) (row : Byte) :
    (d.drawRow cx cy r row).collided = true ↔ d.collided = true ∨
      ∃ c < 8, row.getLsbD (7 - c) = true ∧ d.fb.pixel (wrapX cx c) (wrapY cy r) = true :=
  (d.foldColumns cx cy r row 8 (by omega)).2

/-! ### A whole sprite -/

/-- A set bit of the rows, the first of which is row `r`, lands on the pixel. -/
def Lands (cx cy : Byte) (r : Nat) (rows : List Byte) (px : Fin 64) (py : Fin 32) : Prop :=
  ∃ k, ∃ h : k < rows.length, ∃ c < 8, rows[k].getLsbD (7 - c) = true ∧ px = wrapX cx c ∧ py = wrapY cy (r + k)

theorem lands_cons {cx cy : Byte} {r : Nat} {row : Byte} {rest : List Byte} {px : Fin 64} {py : Fin 32} :
    Lands cx cy r (row :: rest) px py ↔
      (∃ c < 8, row.getLsbD (7 - c) = true ∧ px = wrapX cx c ∧ py = wrapY cy r) ∨ Lands cx cy (r + 1) rest px py := by
  constructor
  · rintro ⟨k, hk, c, hc, hb, hx, hy⟩
    cases k with
    | zero => exact .inl ⟨c, hc, hb, hx, hy⟩
    | succ k =>
      refine .inr ⟨k, by simpa using hk, c, hc, hb, hx, ?_⟩
      rw [hy]; congr 1; omega
  · rintro (⟨c, hc, hb, hx, hy⟩ | ⟨k, hk, c, hc, hb, hx, hy⟩)
    · exact ⟨0, by simp, c, hc, hb, hx, hy⟩
    · refine ⟨k + 1, by simpa using hk, c, hc, hb, hx, ?_⟩
      rw [hy]; congr 1; omega

/-- Rows after row `r` do not land in row `r`'s pixels. -/
theorem not_lands_of_row {cx cy : Byte} {r : Nat} {rest : List Byte} {px : Fin 64} {py : Fin 32}
    (hr : r + 1 + rest.length ≤ 32) (hy : py = wrapY cy r) : ¬Lands cx cy (r + 1) rest px py := by
  rintro ⟨k, hk, c, hc, -, -, hy'⟩
  have := wrapY_injective (by omega) (by omega) (hy.symm.trans hy')
  omega

open Classical in
/-- What drawing a sprite does to every pixel, and when it collides (40_display.md R103): up to 32 rows, no pixel is
toggled twice. -/
theorem Drawing.drawRows_spec (d : Drawing) (cx cy : Byte) (r : Nat) (rows : List Byte) (hr : r + rows.length ≤ 32) :
    (∀ px py, (d.drawRows cx cy r rows).fb.pixel px py = (d.fb.pixel px py ^^ decide (Lands cx cy r rows px py))) ∧
    ((d.drawRows cx cy r rows).collided = true ↔
      d.collided = true ∨ ∃ px py, Lands cx cy r rows px py ∧ d.fb.pixel px py = true) := by
  induction rows generalizing d r with
  | nil => simp [Drawing.drawRows, Lands]
  | cons row rest ih =>
    have hr' : r + 1 + rest.length ≤ 32 := by simp only [List.length_cons] at hr; omega
    obtain ⟨hp, hc⟩ := ih (d.drawRow cx cy r row) (r + 1) hr'
    constructor
    · intro px py
      rw [Drawing.drawRows, hp, Drawing.pixel_drawRow, Bool.xor_assoc]
      congr 1
      by_cases h : ∃ c < 8, row.getLsbD (7 - c) = true ∧ px = wrapX cx c ∧ py = wrapY cy r
      · have hn : ¬Lands cx cy (r + 1) rest px py := by
          obtain ⟨c, -, -, -, hy⟩ := h
          exact not_lands_of_row hr' hy
        simp [h, hn, lands_cons]
      · simp [h, lands_cons]
    · rw [Drawing.drawRows, hc, Drawing.collided_drawRow, or_assoc]
      apply or_congr Iff.rfl
      constructor
      · rintro (⟨c, hck, hb, hpx⟩ | ⟨px, py, hl, hpx⟩)
        · exact ⟨_, _, lands_cons.mpr (.inl ⟨c, hck, hb, rfl, rfl⟩), hpx⟩
        · refine ⟨px, py, lands_cons.mpr (.inr hl), ?_⟩
          rwa [Drawing.pixel_drawRow, decide_eq_false, Bool.xor_false] at hpx
          rintro ⟨c, -, -, -, hy⟩
          exact not_lands_of_row hr' hy hl
      · rintro ⟨px, py, hl, hpx⟩
        rcases lands_cons.mp hl with ⟨c, hck, hb, rfl, rfl⟩ | hl
        · exact .inl ⟨c, hck, hb, hpx⟩
        · refine .inr ⟨px, py, hl, ?_⟩
          rwa [Drawing.pixel_drawRow, decide_eq_false, Bool.xor_false]
          rintro ⟨c, -, -, -, hy⟩
          exact not_lands_of_row hr' hy hl

end Sys2Proof.Machine
end

