-- ==== Sys2Proof/Laws/Step.lean ====
section
/-! SUPPORT. One lemma per layer of a step: the fetch, `step()`, an operation of the host. -/

namespace Sys2Proof.Machine

open Sys2Proof

variable {s t : State}

/-- Everything `step()` can do (30_encoding.md R74). -/
theorem blockStep_cases :
    (s.pc.toNat > 4094 ∧ blockStep s = .next (s.reporting (.fetchRange s.pc))) ∨
    (s.pc.toNat ≤ 4094 ∧ decode s.fetch = none ∧
      blockStep s = .next (s.advance.reporting (.decodeFault s.pc s.fetch))) ∨
    ∃ i, s.pc.toNat ≤ 4094 ∧ decode s.fetch = some i ∧ blockStep s = exec i (s.returning .ok) := by
  unfold blockStep
  by_cases h : s.pc.toNat > 4094
  · simp [h]
  · rw [if_neg h]
    cases hd : decode s.fetch with
    | none => exact .inr (.inl ⟨by omega, rfl, rfl⟩)
    | some i => exact .inr (.inr ⟨i, by omega, rfl, rfl⟩)

/-- Everything the host's `step()` can do. -/
theorem perform_step_cases :
    (s.tickOwed = true ∧ perform .step s = .refused .missingTick) ∨
    (s.tickOwed = false ∧ perform .step s = blockStep s.stepBegun) := by
  cases h : s.tickOwed <;> simp [perform, h]

/-- Everything the host's `tick()` can do. -/
theorem perform_tick_cases :
    (s.tickOwed = false ∧ s.cadence = .perStep ∧ perform .tick s = .refused .extraTick) ∨
    ((s.tickOwed = true ∨ s.cadence = .host) ∧ perform .tick s = .next (s.tick.tickPaid.returning .nothing)) := by
  cases h : s.tickOwed <;> cases h' : s.cadence <;> simp [perform, h, h']

/-- Every other operation goes on, and what it leaves alone: the cadence, the schedule, the draws and the owed tick. -/
theorem perform_other_cases (op : HostOp) (hs : op ≠ .step) (ht : op ≠ .tick) :
    ∃ t, perform op s = .next t ∧ t.cadence = s.cadence ∧ t.schedule = s.schedule ∧ t.draws = s.draws ∧
      t.tickOwed = s.tickOwed := by
  cases op with
  | step => exact absurd rfl hs
  | tick => exact absurd rfl ht
  | loadProgram image =>
    refine ⟨s.loadProgram image, rfl, ?_⟩
    unfold State.loadProgram
    split <;> simp
  | _ => exact ⟨_, rfl, rfl, rfl, rfl, rfl⟩

/-- With nothing scheduled the host runs the reference cycle. -/
theorem step_of_idle (h : s.schedule = []) : step s = perform s.idleOp s := by
  simp [step, State.nextOp, h]

/-- With an operation scheduled the host performs it. -/
theorem step_of_scheduled {op : HostOp} {rest : List HostOp} (h : s.schedule = op :: rest) :
    step s = perform op { s with schedule := rest } := by
  simp [step, State.nextOp, h]

end Sys2Proof.Machine
end

