-- ==== Sys2Proof/Tests/Slice0.lean ====
section
/-! SUPPORT. Tests: decoding of words written out from 30_encoding.md, one step per instruction with the results of
95_test_vectors.md, the host's operations, and for each obligation a witness of its hypotheses. -/

open Sys2Proof Sys2Proof.Machine Sys2Proof.Safety

namespace Sys2Proof.Tests

/-! ## Small states -/

/-- The state after `create()` with some registers set (95_test_vectors.md: "only the differences are listed"). -/
def withRegs (regs : List (Reg × Byte)) : State := regs.foldl (fun s p => s.setV p.1 p.2) State.reset

/-- With I and the bytes there. -/
def withIndex (regs : List (Reg × Byte)) (i : Word) (bytes : List Byte) : State :=
  { withRegs regs with i := i, mem := Memory.storeBytes [] i.toNat bytes }

/-- `n` calls deep, each entry 0x300. -/
def withCalls (n : Fin 17) : State := { State.reset with sp := n, stack := Vector.replicate 16 0x300 }

/-- With the given keys down. -/
def withKeys (regs : List (Reg × Byte)) (keys : List Key) : State := keys.foldl (fun s k => s.setKey k true) (withRegs regs)

/-- The state one `step()` leaves, the opcode at PC, no tick; the start state if the step did not go on. -/
def after (op : Word) (s : State) : State :=
  match blockStep { s with mem := s.mem.storeBytes s.pc.toNat [highByte op, lowByte op] } with
  | .next t => t
  | _ => s

/-- `n` operations of the host. -/
def runSteps (s : State) : Nat → Option State
  | 0 => some s
  | n + 1 =>
    match step s with
    | .next t => runSteps t n
    | _ => none

/-! ## Well-formedness -/

theorem test_wf_refuses_sixteen_rows : (Instr.opDXYN 0 0 16).wf = false := by decide
theorem test_wf_accepts_fifteen_rows : (Instr.opDXYN 0 0 15).wf = true := by decide

/-! ## Decoding: every constructor by a word written from its bit pattern (30_encoding.md R73) -/

theorem test_decode_control :
    decode 0b0000000011101110#16 = some .op00EE ∧ decode 0b0001_0010_0011_0100#16 = some (.op1NNN 0x234#12) ∧
    decode 0b0010_1010_1011_1100#16 = some (.op2NNN 0xABC#12) ∧
    decode 0b0011_0101_1100_0001#16 = some (.op3XNN 5 0xC1#8) ∧
    decode 0b0100_0110_0000_1111#16 = some (.op4XNN 6 0x0F#8) ∧
    decode 0b0101_0001_1110_0000#16 = some (.op5XY0 1 14) ∧
    decode 0b1001_1101_0010_0000#16 = some (.op9XY0 13 2) ∧
    decode 0b1011_0001_0000_0010#16 = some (.opBNNN 0x102#12) := by decide

theorem test_decode_registers :
    decode 0b0110_1010_0111_1011#16 = some (.op6XNN 10 0x7B#8) ∧
    decode 0b0111_0010_0001_0101#16 = some (.op7XNN 2 0x15#8) ∧
    decode 0b1000_0001_0011_0000#16 = some (.op8XY0 1 3) ∧ decode 0b1000_0001_0011_0001#16 = some (.op8XY1 1 3) ∧
    decode 0b1000_0001_0011_0010#16 = some (.op8XY2 1 3) ∧ decode 0b1000_0001_0011_0011#16 = some (.op8XY3 1 3) ∧
    decode 0b1000_0001_0011_0100#16 = some (.op8XY4 1 3) ∧ decode 0b1000_0001_0011_0101#16 = some (.op8XY5 1 3) ∧
    decode 0b1000_0001_0011_0110#16 = some (.op8XY6 1 3) ∧ decode 0b1000_0001_0011_0111#16 = some (.op8XY7 1 3) ∧
    decode 0b1000_0001_0011_1110#16 = some (.op8XYE 1 3) ∧
    decode 0b1100_0011_0000_1111#16 = some (.opCXNN 3 0x0F#8) := by decide

theorem test_decode_display_and_index :
    decode 0b0000000011100000#16 = some .op00E0 ∧ decode 0b1101_0001_0010_1111#16 = some (.opDXYN 1 2 15) ∧
    decode 0b1010_0011_0000_0001#16 = some (.opANNN 0x301#12) ∧ decode 0b1111_0010_0001_1110#16 = some (.opFX1E 2) ∧
    decode 0b1111_0010_0010_1001#16 = some (.opFX29 2) ∧ decode 0b1111_1010_0011_0011#16 = some (.opFX33 10) ∧
    decode 0b1111_0010_0101_0101#16 = some (.opFX55 2) ∧ decode 0b1111_0010_0110_0101#16 = some (.opFX65 2) := by
  decide

theorem test_decode_input_and_timers :
    decode 0b1110_0101_1001_1110#16 = some (.opEX9E 5) ∧ decode 0b1110_0101_1010_0001#16 = some (.opEXA1 5) ∧
    decode 0b1111_0100_0000_0111#16 = some (.opFX07 4) ∧ decode 0b1111_0011_0000_1010#16 = some (.opFX0A 3) ∧
    decode 0b1111_0011_0001_0101#16 = some (.opFX15 3) ∧ decode 0b1111_0001_0001_1000#16 = some (.opFX18 1) := by
  decide

/-- 95_test_vectors.md E1 to E10: the words that decode to nothing. -/
theorem test_decode_rejects :
    [0x0000#16, 0x0123#16, 0x01E0#16, 0x5121#16, 0x9121#16, 0x8008#16, 0x800F#16, 0xE000#16, 0xF000#16,
      0xF0FF#16].all (fun op => decode op = none) = true := by decide

theorem test_bytes_rejected_by_name :
    decodeBytes [0x12] = .error (.truncated 1) ∧ decodeBytes [0x01, 0xE0, 0x55] = .error (.unknownOpcode 0x01E0#16) ∧
    decodeBytes [0x12, 0x26, 0x55] = .ok (.op1NNN 0x226#12, [0x55]) := ⟨rfl, rfl, rfl⟩

theorem test_table_word : decodeTableWord 16 0xD123 = some (.opDXYN 1 2 3) ∧ decodeTableWord 16 0x5001 = none := by
  decide

theorem test_fetch_word_runs : step (State.reset.withFetchWord 16 0x6A7B) =
    .next ({ (State.reset.withFetchWord 16 0x6A7B).stepBegun.setV 10 0x7B with pc := 0x202 }.returning .ok) := by rfl

/-- The mnemonics of 30_encoding.md R90. -/
theorem test_assembly :
    (Instr.op8XY6 1 15).assembly = "SHR V1" ∧ (Instr.opDXYN 0 1 2).assembly = "DRW V0, V1, 2" ∧
    (Instr.opANNN 0x20C).assembly = "LD I, 0x20C" := by decide

/-! ## Display (vectors G1 to G10) -/

/-- A state whose framebuffer has these pixels. -/
def withPixels (s : State) (ps : List (Fin 64 × Fin 32)) : State :=
  { s with fb := ps.foldl (fun f p => f.setPixel p.1 p.2 true) s.fb }

theorem test_00E0_clears_and_sets_dirty :
    let t := after 0x00E0 (withPixels State.reset [(5, 5)])
    t.fb.pixel 5 5 = false ∧ t.dirty = true ∧ t.pc = 0x202 := by decide
theorem test_DXYN_draws_at_the_corner :
    let t := after 0xD011 (withIndex [(0, 62), (1, 31)] 0x300 [0xC0])
    t.fb.pixel 62 31 = true ∧ t.fb.pixel 63 31 = true ∧ t.fb.pixel 0 31 = false ∧ t.V VF = 0 ∧ t.dirty = true ∧
      t.pc = 0x202 := by decide
theorem test_DXYN_collides_at_the_old_VF :
    let t := after 0xDFF1 (withPixels (withIndex [(15, 10)] 0x300 [0x80]) [(10, 10)])
    t.fb.pixel 10 10 = false ∧ t.V VF = 1 := by decide
theorem test_DXYN_wraps_both_axes :
    let t := after 0xD012 (withIndex [(0, 200), (1, 95)] 0x300 [0x80, 0x80])
    t.fb.pixel 8 31 = true ∧ t.fb.pixel 8 0 = true ∧ t.V VF = 0 := by decide
theorem test_DXYN_no_rows_never_faults :
    let t := after 0xD000 { withRegs [(15, 7)] with i := 0xFFFF }
    t.V VF = 0 ∧ t.dirty = true ∧ t.pc = 0x202 ∧ t.result = .ok := by decide
theorem test_DXYN_range_fault_is_void :
    let t := after 0xD003 { State.reset with i := 0xFFE }
    t.result = .fault (.memoryRange 0x200 0xD003 0x1000) ∧ t.dirty = false ∧ t.pc = 0x200 := by decide

/-! ## Control transfer (vectors J1 to J16, W2 to W6) -/

theorem test_00EE_returns_past_the_call :
    let t := after 0x00EE (withCalls 1)
    t.pc = 0x302 ∧ t.sp = 0 ∧ t.stack[0] = 0x300 := by decide
theorem test_00EE_underflow :
    (after 0x00EE State.reset).result = .fault (.stackUnderflow 0x200 0x00EE) ∧ (after 0x00EE State.reset).pc = 0x200 := by
  decide
theorem test_1NNN : (after 0x1226 State.reset).pc = 0x226 := by decide
theorem test_2NNN_pushes_its_own_address :
    let t := after 0x2220 State.reset
    t.stack[0] = 0x200 ∧ t.sp = 1 ∧ t.pc = 0x220 := by decide
theorem test_2NNN_sixteen_fit_and_seventeen_do_not :
    (after 0x2300 (withCalls 15)).sp = 16 ∧ (after 0x2300 (withCalls 15)).stack[15] = 0x200 ∧
    (after 0x2300 (withCalls 16)).result = .fault (.stackOverflow 0x200 0x2300) := by decide
theorem test_3XNN : (after 0x3002 (withRegs [(0, 2)])).pc = 0x204 ∧ (after 0x300F (withRegs [(0, 2)])).pc = 0x202 := by
  decide
theorem test_4XNN : (after 0x4311 (withRegs [(3, 0x10)])).pc = 0x204 ∧ (after 0x4310 (withRegs [(3, 0x10)])).pc = 0x202 := by
  decide
theorem test_5XY0 : (after 0x5120 (withRegs [(1, 7), (2, 7)])).pc = 0x204 ∧ (after 0x5120 (withRegs [(1, 7)])).pc = 0x202 := by
  decide
theorem test_9XY0 : (after 0x9120 (withRegs [(1, 7), (2, 8)])).pc = 0x204 ∧ (after 0x9110 (withRegs [(1, 7)])).pc = 0x202 := by
  decide
theorem test_BNNN_not_reduced_to_12_bits : (after 0xBFFF (withRegs [(0, 0xFF)])).pc = 0x10FE := by decide

/-! ## Registers and arithmetic (vectors A1 to A27) -/

theorem test_6XNN : (after 0x6A7B State.reset).V 10 = 0x7B := by decide
theorem test_7XNN_wraps_without_a_flag :
    (after 0x7215 (withRegs [(2, 0xF0), (15, 9)])).V 2 = 0x05 ∧ (after 0x7215 (withRegs [(2, 0xF0), (15, 9)])).V VF = 9 := by
  decide
theorem test_8XY0 : (after 0x8130 (withRegs [(3, 0x42)])).V 1 = 0x42 := by decide
theorem test_8XY1_leaves_VF :
    let t := after 0x8121 (withRegs [(1, 0x0F), (2, 0xF0), (15, 5)])
    t.V 1 = 0xFF ∧ t.V VF = 5 := by decide
theorem test_8XY2 : (after 0x8122 (withRegs [(1, 0x3C), (2, 0x0F)])).V 1 = 0x0C := by decide
theorem test_8XY3 : (after 0x8113 (withRegs [(1, 0x5A)])).V 1 = 0 ∧ (after 0x8123 (withRegs [(1, 0xFF), (2, 0x0F)])).V 1 = 0xF0 := by
  decide
theorem test_8XY4_carry :
    let t := after 0x8124 (withRegs [(1, 0xFF), (2, 0xFF)])
    t.V 1 = 0xFE ∧ t.V VF = 1 := by decide
theorem test_8XY4_flag_first :
    (after 0x81F4 (withRegs [(1, 0x10), (15, 5)])).V 1 = 0x10 ∧ (after 0x8F14 (withRegs [(15, 0xFF), (1, 1)])).V VF = 2 := by
  decide
theorem test_8XY5_borrow_and_equal :
    (after 0x8125 (withRegs [(1, 5), (2, 7)])).V 1 = 0xFE ∧ (after 0x8125 (withRegs [(1, 5), (2, 7)])).V VF = 0 ∧
    (after 0x8125 (withRegs [(1, 7), (2, 7)])).V VF = 1 := by decide
theorem test_8XY5_flag_first :
    (after 0x8F15 (withRegs [(15, 0x10), (1, 0x20)])).V VF = 0xE0 ∧ (after 0x81F5 (withRegs [(1, 5), (15, 3)])).V 1 = 4 := by
  decide
theorem test_8XY6_ignores_y :
    (after 0x8106 (withRegs [(1, 5)])).V 1 = 2 ∧ (after 0x81F6 (withRegs [(1, 5)])).V 1 = 2 ∧
    (after 0x81F6 (withRegs [(1, 5)])).V VF = 1 := by decide
theorem test_8XY6_of_VF : (after 0x8F06 (withRegs [(15, 3)])).V VF = 0 := by decide
theorem test_8XY7 :
    (after 0x8127 (withRegs [(1, 3), (2, 0x10)])).V 1 = 0x0D ∧ (after 0x8127 (withRegs [(1, 3), (2, 0x10)])).V VF = 1 := by
  decide
theorem test_8XY7_flag_first :
    (after 0x8F17 (withRegs [(15, 3), (1, 1)])).V VF = 1 ∧ (after 0x81F7 (withRegs [(1, 2), (15, 5)])).V 1 = 0xFF := by
  decide
theorem test_8XYE : (after 0x840E (withRegs [(4, 0x81)])).V 4 = 2 ∧ (after 0x840E (withRegs [(4, 0x81)])).V VF = 1 := by
  decide
theorem test_8XYE_of_VF : (after 0x8F0E (withRegs [(15, 0x81)])).V VF = 2 := by decide
/-- Vector A26, for a collaborator whose first byte is 0xB6. -/
theorem test_CXNN_masks (h : Config.rand 0 = 0xB6) : (after 0xC30F State.reset).V 3 = 0x06 := by
  show Config.rand 0 &&& 0x0F = (0x06 : Byte)
  rw [h]; decide
theorem test_CXNN_consumes_one_byte : (after 0xC300 State.reset).draws = 1 := by decide

/-! ## Index and memory (vectors M1 to M17) -/

theorem test_ANNN : (after 0xA300 State.reset).i = 0x300 := by decide
theorem test_FX1E_flags_past_4095 :
    (after 0xF11E { withRegs [(1, 0x10)] with i := 0xFFA }).i = 0x100A ∧
    (after 0xF11E { withRegs [(1, 0x10)] with i := 0xFFA }).V VF = 1 ∧
    (after 0xF11E { withRegs [(1, 0x0F)] with i := 0xFF0 }).V VF = 0 := by decide
theorem test_FX1E_wraps_and_reads_the_new_VF :
    (after 0xF11E { withRegs [(1, 1)] with i := 0xFFFF }).i = 0 ∧
    (after 0xFF1E { withRegs [(15, 0x20)] with i := 0xFF0 }).i = 0xFF1 := by decide
theorem test_FX29_not_masked : (after 0xF229 (withRegs [(2, 0x0A)])).i = 0x032 ∧ (after 0xFF29 (withRegs [(15, 0xFF)])).i = 0x4FB := by
  decide
theorem test_FX33_digits : (after 0xF033 (withIndex [(0, 255)] 0x300 [9, 9, 9])).mem.loadBytes 0x300 3 = [2, 5, 5] := by
  decide
theorem test_FX33_top_of_memory :
    (after 0xF033 (withIndex [(0, 7)] 0xFFD [])).mem.loadBytes 0xFFD 3 = [0, 0, 7] ∧
    (after 0xF033 (withIndex [(0, 7)] 0xFFE [])).result = .fault (.memoryRange 0x200 0xF033 0x1000) := by decide
theorem test_FX55_stores_through_x :
    let t := after 0xF255 (withIndex [(0, 1), (1, 2), (2, 3), (3, 4)] 0x300 [])
    t.mem.loadBytes 0x300 4 = [1, 2, 3, 0] ∧ t.i = 0x300 := by decide
theorem test_FX55_no_partial_store :
    let t := after 0xFF55 (withIndex [(0, 1)] 0xFF1 [])
    t.result = .fault (.memoryRange 0x200 0xFF55 0x1000) ∧ t.mem.read 0xFF1 = 0 := by decide
theorem test_FX65_loads_through_x :
    let t := after 0xF165 (withIndex [(2, 0x11)] 0x300 [0xAB, 0xCD, 0xEF])
    t.V 0 = 0xAB ∧ t.V 1 = 0xCD ∧ t.V 2 = 0x11 := by decide
theorem test_FX65_range :
    (after 0xF265 (withIndex [(0, 1)] 0xFFE [])).result = .fault (.memoryRange 0x200 0xF265 0x1000) ∧
    (after 0xF265 (withIndex [(0, 1)] 0xFFE [])).V 0 = 1 := by decide

/-! ## Input and timers (vectors K1 to K8, T1 to T7) -/

theorem test_EX9E : (after 0xE59E (withKeys [(5, 10)] [10])).pc = 0x204 ∧ (after 0xE59E (withRegs [(5, 10)])).pc = 0x202 := by
  decide
theorem test_EX9E_key_range : (after 0xE09E (withRegs [(0, 16)])).result = .fault (.keyRange 0x200 0xE09E 16) := by decide
theorem test_EXA1 : (after 0xE5A1 (withRegs [(5, 10)])).pc = 0x204 ∧ (after 0xE5A1 (withKeys [(5, 10)] [10])).pc = 0x202 := by
  decide
theorem test_EXA1_key_range : (after 0xE0A1 (withRegs [(0, 0xFF)])).result = .fault (.keyRange 0x200 0xE0A1 0xFF) := by decide
theorem test_FX07 : (after 0xF407 { State.reset with dt := 4 }).V 4 = 4 := by decide
theorem test_FX0A_waits : (after 0xF30A State.reset).result = .waiting ∧ (after 0xF30A State.reset).pc = 0x200 := by decide
theorem test_FX0A_takes_the_least_key :
    (after 0xF30A (withKeys [] [7, 9])).V 3 = 7 ∧ (after 0xF30A (withKeys [] [7, 9])).pc = 0x202 := by decide
theorem test_FX15 : (after 0xF315 (withRegs [(3, 5)])).dt = 5 := by decide
theorem test_FX18 : (after 0xF118 (withRegs [(1, 0x3C)])).st = 0x3C := by decide

/-! ## Faults of the fetch, and the host's operations (vectors E1, E12, E13, T2 to T6, H1 to H6) -/

theorem test_unknown_opcode_advances :
    let t := after 0x5121 State.reset
    t.result = .fault (.decodeFault 0x200 0x5121) ∧ t.pc = 0x202 ∧ t.faults = [.decodeFault 0x200 0x5121] := by decide
theorem test_fetch_range : (match blockStep { State.reset with pc := 0xFFF } with
    | .next t => decide (t.result = .fault (.fetchRange 0xFFF) ∧ t.pc = 0xFFF)
    | _ => false) = true := by decide
theorem test_last_word_can_be_fetched : (after 0x00E0 { State.reset with pc := 0xFFE }).pc = 0x1000 := by decide
theorem test_tick : ({ State.reset with dt := 0xFF, st := 2 }.tick.dt = 0xFE ∧ { State.reset with dt := 0xFF, st := 2 }.tick.st = 1 ∧
    State.reset.tick = State.reset) := by decide
/-- Vector T2: the host reads DT between FX15 and its tick, and after it. -/
theorem test_reads_around_the_tick : (match runSteps { (withRegs [(3, 5)]).withOpcode 0xF315 with schedule := [.step, .readDT, .tick] } 2 with
    | some t => decide (t.result = .timer 5 ∧ t.tickOwed = true) && (match step t with
      | .next u => decide (u.dt = 4 ∧ u.tickOwed = false)
      | _ => false)
    | none => false) = true := by decide
theorem test_empty_memory_faults : (match step State.reset with
    | .next t => decide (t.result = .fault (.decodeFault 0x200 0) ∧ t.pc = 0x202)
    | _ => false) = true := by decide
theorem test_init_keeps_memory :
    let t := { withIndex [(3, 9)] 0x300 [0x55] with pc := 0x345, sp := 2, dt := 7 }.init
    t.V 3 = 0 ∧ t.pc = 0x200 ∧ t.sp = 0 ∧ t.dt = 0 ∧ t.mem.read 0x300 = 0x55 := by decide
theorem test_load_program :
    (State.reset.loadProgram [0x12, 0x26]).mem.loadBytes 0x200 3 = [0x12, 0x26, 0] ∧
    State.reset.loadProgram [] = State.reset.returning .loaded := by decide
theorem test_load_too_large :
    State.reset.loadProgram (List.replicate 3585 1) = State.reset.reporting (.loadTooLarge 3585) := by
  unfold State.loadProgram
  rw [if_pos (by rw [List.length_replicate]; decide), List.length_replicate]
theorem test_ticks_out_of_turn_refused :
    step { State.reset with schedule := [.tick] } = .refused .extraTick ∧
    step { State.reset with schedule := [.step], tickOwed := true } = .refused .missingTick := ⟨rfl, rfl⟩
theorem test_create_with_the_default_font :
    (State.create (Vector.ofFn fun k => defaultFont.getD k.val 0)).mem = [] := by decide
theorem test_memory_canonical :
    State.reset.mem.wf = true ∧ Memory.write [(0x300, 1)] 0x300 0 = [] ∧ Memory.write [] 0 0xF0 = [] ∧
    Memory.wf [(0x300, 0)] = false ∧ Memory.wf [(0x301, 1), (0x300, 1)] = false := by decide

/-! ## Witnesses: a concrete state and operands for the hypotheses of each obligation -/

/-- `op` at PC, the tick left to the host. -/
def withOp (op : Word) (s : State) : State :=
  { s with mem := s.mem.storeBytes s.pc.toNat [highByte op, lowByte op], cadence := .host }

theorem witness_DecodeEncodeRoundTrip : (Instr.opDXYN 15 0 15).wf = true ∧ (Instr.op00E0).wf = true := by decide
theorem witness_DecodedWordIsItsEncoding : decode 0x8AB6#16 = some (.op8XY6 10 11) := by decide
theorem witness_DecodeMatchesTheTable :
    (Instr.op5XY0 0 0).row ∈ opcodeTable ∧ 0x5120#16 &&& (Instr.op5XY0 0 0).row.mask = (Instr.op5XY0 0 0).row.pattern := by
  decide
theorem witness_StepRunsTheDecodedInstruction :
    let s := withOp 0x1226 { State.reset with pc := 4094 }
    s.tickOwed = false ∧ s.pc.toNat ≤ 4094 ∧
      decode (s.mem.read s.pc.toNat ++ s.mem.read (s.pc.toNat + 1)) = some (.op1NNN 0x226) ∧ s.schedule = [] := by
  decide
/-- With nothing scheduled, and with a step at the head of the schedule. -/
theorem witness_DecodeFaultAdvancesPC :
    let s := { State.reset with pc := 4094 }
    s.nextOp.1 = .step ∧ ({ s with schedule := [.step, .readDT] } : State).nextOp.1 = .step ∧ s.tickOwed = false ∧
      s.pc.toNat ≤ 4094 ∧ decode s.fetch = none ∧ s.cadence = .perStep := by decide
theorem witness_FetchRangeFaultIsVoid :
    let s := { State.reset with pc := 4095 }
    s.nextOp.1 = .step ∧ s.tickOwed = false ∧ s.pc.toNat > 4094 ∧ s.cadence = .perStep := by decide
/-- Every arm of the table at the first value past its bound, and at the last value within it. -/
theorem witness_FaultsExactlyAsTabled :
    (faultOf .op00EE State.reset).isSome = true ∧ faultOf .op00EE (withCalls 1) = none ∧
    (faultOf (.op2NNN 0) (withCalls 16)).isSome = true ∧ faultOf (.op2NNN 0) (withCalls 15) = none ∧
    (faultOf (.opDXYN 0 0 2) (withIndex [] 4095 [])).isSome = true ∧ faultOf (.opDXYN 0 0 1) (withIndex [] 4095 []) = none ∧
    (faultOf (.opFX33 0) (withIndex [] 4094 [])).isSome = true ∧ faultOf (.opFX33 0) (withIndex [] 4093 []) = none ∧
    (faultOf (.opFX55 1) (withIndex [] 4095 [])).isSome = true ∧ faultOf (.opFX55 0) (withIndex [] 4095 []) = none ∧
    (faultOf (.opFX65 1) (withIndex [] 4095 [])).isSome = true ∧ faultOf (.opFX65 0) (withIndex [] 4095 []) = none ∧
    (faultOf (.opEX9E 0) (withRegs [(0, 16)])).isSome = true ∧ faultOf (.opEX9E 0) (withRegs [(0, 15)]) = none ∧
    (faultOf (.opEXA1 0) (withRegs [(0, 16)])).isSome = true ∧ faultOf (.opEXA1 0) (withRegs [(0, 15)]) = none := by
  decide
theorem witness_VoidFaultRepeats :
    let s := { State.reset with pc := 4095, dt := 2 }
    let t := s.stepBegun.reporting (.fetchRange 4095)
    let u := t.tick.tickPaid
    s.nextOp.1 = .step ∧ step s = .next t ∧ t.result = .fault (.fetchRange 4095) ∧ (Fault.fetchRange 4095).code ≠ 1 ∧
      SameBlock { t with dt := u.dt, st := u.st } u ∧ u.tickOwed = false :=
  ⟨rfl, rfl, rfl, by decide, by unfold SameBlock; decide, rfl⟩
/-- The invariant at its bound: BNNN takes PC to 0x10FE. -/
theorem witness_StepKeepsInv :
    let s := withOp 0xBFFF (withRegs [(0, 0xFF)])
    let t := { s.stepBegun with pc := 0x10FE }.returning .ok
    Invariant s ∧ step s = .next t ∧ t.pc.toNat = 0x10FE := ⟨by unfold Invariant; decide, rfl, rfl⟩
theorem witness_FaultLogOnlyGrows : ∃ t, step State.reset = .next t ∧ t.faults.length = 1 := ⟨_, rfl, rfl⟩
theorem witness_OperationsRunInOrder :
    ({ State.reset with schedule := [.setKey 7 true, .step] } : State).schedule = .setKey 7 true :: [.step] ∧
    State.reset.schedule = [] ∧ ∃ t, step State.reset = .next t := ⟨rfl, rfl, _, rfl⟩
/-- A step, a read between it and its tick, and the tick. -/
theorem witness_StepsAndTicksAlternate :
    let s := withRegs [(3, 5)]
    let r : State := { s with tickOwed := true, schedule := [.readDT] }
    let t : State := { s with tickOwed := true }
    s.cadence = .perStep ∧ s.nextOp.1 = .step ∧ (∃ u, step s = .next u) ∧ r.nextOp.1 ≠ .step ∧ r.nextOp.1 ≠ .tick ∧
      (∃ u, step r = .next u) ∧ t.nextOp.1 = .tick ∧ ∃ u, step t = .next u :=
  ⟨rfl, rfl, ⟨_, rfl⟩, by decide, by decide, ⟨_, rfl⟩, rfl, _, rfl⟩
theorem witness_SelfJumpRepeats :
    let s := { withOp 0x1200 State.reset with cadence := .perStep }
    s.nextOp.1 = .step ∧ s.tickOwed = false ∧ AtSelfJump s ∧
      ∃ u, perform .tick { s with tickOwed := true } = .next u := ⟨rfl, rfl, ⟨by decide, 0x200, by decide, by decide⟩, _, rfl⟩
/-- A step that ends a run, and a rejected image, a decode fault and a wait that do not. -/
theorem witness_RunsEndAtFaultsOfSteps :
    (∃ t, step { State.reset with pc := 4095 } = .next t ∧ t.result = .fault (.fetchRange 4095)) ∧
    (∃ t, step { State.reset with schedule := [.loadProgram (List.replicate 3585 0)] } = .next t ∧
      t.result = .fault (.loadTooLarge 3585)) ∧
    (∃ t, step State.reset = .next t ∧ t.result = .fault (.decodeFault 0x200 0)) ∧
    ∃ t, step (withOp 0xF30A State.reset) = .next t ∧ t.result = .waiting :=
  ⟨⟨_, rfl, rfl⟩, ⟨_, rfl, by
    unfold State.loadProgram
    rw [if_pos (by rw [List.length_replicate]; decide), List.length_replicate]; rfl⟩, ⟨_, rfl, rfl⟩, _, rfl, rfl⟩
theorem witness_LoadProgramCopiesOrRejects :
    (List.replicate 3584 (1 : Byte)).length ≤ 3584 ∧ (List.replicate 3585 (1 : Byte)).length > 3584 := by
  rw [List.length_replicate, List.length_replicate]; decide
theorem witness_BootRunsTheFirstWord :
    let image : List Byte := [0x12, 0x26]
    image.length ≤ 3584 ∧ decode ((0x12 : Byte) ++ (0x26 : Byte)) = some (.op1NNN 0x226) := by decide
theorem witness_TickCountsDown :
    ({ State.reset with cadence := .host, dt := 1 } : State).cadence = .host ∧
    ({ State.reset with tickOwed := true, dt := 1 } : State).tickOwed = true := ⟨rfl, rfl⟩
theorem witness_ReferenceCycleTicksTheNewValue :
    let s (op : Word) : State := { withOp op (withRegs [(3, 5)]) with cadence := .perStep }
    (s 0xF315).schedule = [] ∧ (s 0xF315).tickOwed = false ∧ (s 0xF315).cadence = .perStep ∧ (s 0xF315).pc.toNat ≤ 4094 ∧
      decode (s 0xF315).fetch = some (.opFX15 3) ∧ decode (s 0xF318).fetch = some (.opFX18 3) := by decide
theorem witness_DelayTimerRisesOnlyByFX15 :
    ∃ t, step (withOp 0xF315 (withRegs [(3, 5)])) = .next t ∧ (withOp 0xF315 (withRegs [(3, 5)])).dt.toNat < t.dt.toNat :=
  ⟨_, rfl, by decide⟩

/-! ### Display -/

/-- No rows, the last row in memory with a collision and without, and a row past memory. -/
theorem witness_DrawSpriteClosedForm :
    (Instr.opDXYN 0 1 0).wf = true ∧ (withIndex [] 4095 [0x80]).i.toNat + 1 - 1 ≤ 4095 ∧
    (withIndex [] 4095 [0x80]).i.toNat + 2 - 1 > 4095 ∧
    (∃ px py, SpriteCovers (withPixels (withIndex [] 4095 [0x80]) [(0, 0)]) 0 1 1 px py ∧
      (withPixels (withIndex [] 4095 [0x80]) [(0, 0)]).fb.pixel px py = true) ∧
    ¬∃ px py, SpriteCovers (withIndex [] 4095 [0x80]) 0 1 1 px py ∧ (withIndex [] 4095 [0x80]).fb.pixel px py = true :=
  ⟨by decide, by decide, by decide, ⟨0, 0, ⟨0, by decide, 0, by decide, by decide, by decide, by decide⟩, by decide⟩, by
    rintro ⟨px, py, -, h⟩
    simp [withIndex, withRegs, State.reset, Framebuffer.pixel] at h⟩
/-- Also with x = y = 15: the first draw collides with nothing, and VF stays 0. -/
theorem witness_DrawTwiceRestores :
    let s := withIndex [] 0x300 [0x80]
    (Instr.opDXYN 15 15 1).wf = true ∧ s.i.toNat + 1 - 1 ≤ 4095 ∧
      ∃ t, exec (.opDXYN 15 15 1) s = .next t ∧ t.V 15 = s.V 15 := ⟨by decide, by decide, _, rfl, by decide⟩
theorem witness_SecondDrawAlwaysCollides :
    let s := withIndex [] 0x300 [0x80]
    (Instr.opDXYN 0 1 1).wf = true ∧ s.i.toNat + 1 - 1 ≤ 4095 ∧ (∃ px py, SpriteCovers s 0 1 1 px py) ∧
      ∃ t u, exec (.opDXYN 0 1 1) s = .next t ∧ t.V 0 = s.V 0 ∧ t.V 1 = s.V 1 ∧ exec (.opDXYN 0 1 1) t = .next u :=
  ⟨by decide, by decide, ⟨0, 0, 0, by decide, 0, by decide, by decide, by decide, by decide⟩,
    _, _, rfl, by decide, by decide, rfl⟩

/-! ### Control transfer -/

theorem witness_ReturnPopsTheStack : 0 < (withCalls 1).sp.val ∧ 0 < (withCalls 16).sp.val ∧ State.reset.sp.val = 0 := by
  decide
theorem witness_CallPushesItsAddress : (withCalls 15).sp.val < 16 ∧ (withCalls 16).sp.val = 16 := by decide
theorem witness_CallThenReturnResumes : (withCalls 15).sp.val < 16 ∧ ∃ t, exec (.op2NNN 0x220) (withCalls 15) = .next t :=
  ⟨by decide, _, rfl⟩
/-- Each skip on both sides of its condition, and a word of families 5 and 9 that is none. -/
theorem witness_SkipsCompareRegisters :
    (withRegs [(1, 7)]).V 1 = 7 ∧ (withRegs [(1, 7)]).V 1 ≠ 8 ∧ (withRegs [(1, 7)]).V 1 = (withRegs [(1, 7)]).V 1 ∧
    (withRegs [(1, 7)]).V 1 ≠ (withRegs [(1, 7)]).V 2 ∧ (0x5121#16).toNat / 4096 = 5 ∧ (0x9121#16).toNat / 4096 = 9 ∧
    (0x5121#16).toNat % 16 ≠ 0 := by decide

/-! ### Registers and arithmetic -/

/-- A register other than the destination, as the frames name one. -/
theorem witness_LoadsAndBitwise : (1 : Reg) ≠ 15 ∧ (VF : Reg) ≠ 1 := by decide
/-- With x = 15: the carry of 0xFF + 1, which the addition then reads. -/
theorem witness_AddWritesCarryFirst :
    let s := withRegs [(15, 0xFF), (1, 1)]
    ((1 : Byte) = if (s.V 15).toNat + (s.V 1).toNat > 255 then 1 else 0) ∧
      ((1 : Byte) = if (15 : Reg) = VF then 1 else s.V 15) ∧ (1 : Byte) = if (1 : Reg) = VF then 1 else s.V 1 := by decide
/-- Equal operands, the boundary of both borrows, with y = 15. -/
theorem witness_SubtractsWriteNoBorrowFirst :
    let s := withRegs [(1, 7), (15, 7)]
    ((1 : Byte) = if (s.V 15).toNat > (s.V 1).toNat then 0 else 1) ∧
      ((1 : Byte) = if (s.V 1).toNat > (s.V 15).toNat then 0 else 1) ∧
      ((7 : Byte) = if (1 : Reg) = VF then 1 else s.V 1) ∧ (1 : Byte) = if (15 : Reg) = VF then 1 else s.V 15 := by decide
theorem witness_ShiftsWriteTheLostBitFirst : (1 : Reg) ≠ VF ∧ (15 : Reg) = VF := by decide
theorem witness_FlagAliasingTable :
    let s := withRegs [(1, 1), (2, 2), (15, 0x80)]
    (1 : Reg) ≠ VF ∧ (2 : Reg) ≠ VF ∧ (∃ t, exec (.op8XY4 VF 2) s = .next t) ∧ (∃ t, exec (.op8XY4 1 VF) s = .next t) ∧
      (∃ t, exec (.op8XY4 VF VF) s = .next t) ∧ (∃ t, exec (.op8XY5 VF 2) s = .next t) ∧
      (∃ t, exec (.op8XY5 1 VF) s = .next t) ∧ (∃ t, exec (.op8XY5 VF VF) s = .next t) ∧
      (∃ t, exec (.op8XY7 VF 2) s = .next t) ∧ (∃ t, exec (.op8XY7 1 VF) s = .next t) ∧
      ∃ t, exec (.op8XY7 VF VF) s = .next t :=
  ⟨by decide, by decide, ⟨_, rfl⟩, ⟨_, rfl⟩, ⟨_, rfl⟩, ⟨_, rfl⟩, ⟨_, rfl⟩, ⟨_, rfl⟩, ⟨_, rfl⟩, ⟨_, rfl⟩, _, rfl⟩
theorem witness_RandomByteIsMasked : (0x0F : Byte).getLsbD 4 = false ∧ (0x0F : Byte).getLsbD 3 = true := by decide

/-! ### Index and memory -/

/-- The flag at its boundary: 4095 does not set it, 4096 does; with x = 15 the addition reads it. -/
theorem witness_IndexArithmetic :
    ((0 : Byte) = if (withIndex [(1, 0x0F)] 0xFF0 []).i.toNat + ((withIndex [(1, 0x0F)] 0xFF0 []).V 1).toNat > 4095 then 1 else 0) ∧
    ((0x0F : Byte) = if (1 : Reg) = VF then 0 else (withIndex [(1, 0x0F)] 0xFF0 []).V 1) ∧
    ((1 : Byte) = if (withIndex [(15, 0x10)] 0xFF0 []).i.toNat + ((withIndex [(15, 0x10)] 0xFF0 []).V 15).toNat > 4095 then 1 else 0) ∧
    (1 : Byte) = if (15 : Reg) = VF then 1 else (withIndex [(15, 0x10)] 0xFF0 []).V 15 := by decide
theorem witness_StoreDecimalDigits :
    (withIndex [] 4093 []).i.toNat + 2 ≤ 4095 ∧ (withIndex [] 4094 []).i.toNat + 2 > 4095 := by decide
theorem witness_StoreRegisters :
    (withIndex [] 4080 []).i.toNat + (15 : Reg).val ≤ 4095 ∧ (withIndex [] 4081 []).i.toNat + (15 : Reg).val > 4095 ∧
    (15 : Reg) ≤ 15 := by decide
theorem witness_LoadRegisters :
    (withIndex [] 4095 []).i.toNat + (0 : Reg).val ≤ 4095 ∧ (withIndex [] 4095 []).i.toNat + (1 : Reg).val > 4095 := by decide
theorem witness_StoreLoadRoundTrip :
    let s := withIndex [(0, 1), (15, 2)] 4080 []
    s.i.toNat + (15 : Reg).val ≤ 4095 ∧ ∃ t, exec (.opFX55 15) s = .next t ∧ t.i = s.i := ⟨by decide, _, rfl, rfl⟩
/-- FX55 at 0x200 over the word at 0x202; a fetch whose low half alone lies on a stored byte, and one past the last. -/
theorem witness_FetchSeesTheStore :
    let s := withIndex [(0, 0x12), (1, 0x34)] 0x202 []
    s.i.toNat + (1 : Reg).val ≤ 4095 ∧ s.i.toNat + 2 ≤ 4095 ∧ ([0x12, 0x26] : List Byte).length ≤ 3584 ∧
      (∃ t, exec (.opFX55 1) s = .next t ∧ t.pc.toNat = 0x202 + 0 ∧ t.pc.toNat + 1 = 0x202 + 1) ∧
      (∃ t, exec (.opFX33 0) s = .next t ∧ ({ t with pc := 0x201 } : State).pc.toNat + 1 = 0x202 + 0 ∧
        ({ t with pc := 0x205 } : State).pc.toNat ≥ 0x202 + 3) ∧
      ∃ t, perform (.loadProgram [0x12, 0x26]) s = .next t ∧ t.pc.toNat = 512 + 0 :=
  ⟨by decide, by decide, by decide, ⟨_, rfl, by decide, by decide⟩, ⟨_, rfl, by decide, by decide⟩, _, rfl, by decide⟩
theorem witness_CanonicalMemoriesAreEqual :
    let m := Memory.write (Memory.write [] 0x301 2) 0x300 1
    m.wf = true ∧ Memory.wf [(0x300, 1), (0x301, 2)] = true ∧ ∀ a, m.read a = Memory.read [(0x300, 1), (0x301, 2)] a :=
  ⟨by decide, by decide, fun _ => rfl⟩

/-! ### Input -/

theorem witness_KeySkips :
    ((withKeys [(5, 15)] [15]).V 5).toNat = (15 : Key).val ∧ (withKeys [(5, 15)] [15]).keyDown 15 = true ∧
    (withRegs [(5, 15)]).keyDown 15 = false ∧ 15 < ((withRegs [(5, 16)]).V 5).toNat := by decide
theorem witness_WaitForKey :
    ((withKeys [] [7, 9]).keyDown 7 = true ∧ ∀ j < 7, (withKeys [] [7, 9]).keyDown j = false) ∧
    (withKeys [] [15]).keyDown 15 = true ∧ (∀ j < 15, (withKeys [] [15]).keyDown j = false) ∧
    ∀ k, State.reset.keyDown k = false := by decide

/-! ### Whole-machine rules -/

theorem witness_DirtyIsSetByDrawingOnly :
    (∃ t, exec (.opDXYN 0 1 0) State.reset = .next t ∧ t.faults = State.reset.faults ∧ State.reset.dirty = false) ∧
    ∃ t, step { State.reset with dirty := true, schedule := [.clearDirty] } = .next t ∧ t.dirty = false :=
  ⟨⟨_, rfl, rfl, rfl⟩, _, rfl, rfl⟩
/-- The first clause by a call; the others by two states whose entries above SP differ, under a return. -/
theorem witness_StaleStackEntriesUnobservable :
    (∃ t, exec (.op2NNN 0x300) State.reset = .next t ∧ t.stack ≠ State.reset.stack) ∧
    let s := withCalls 1
    let u := { s with stack := (Vector.replicate 16 0x444).set 0 0x300 }
    SameBlock { s with stack := u.stack } u ∧ s.draws = u.draws ∧ s.stack ≠ u.stack ∧
      (∀ j : Fin 16, j.val < s.sp.val → s.stack[j.val] = u.stack[j.val]) ∧ Instr.op00E0 ≠ .op00EE ∧
      (∃ t w, exec .op00E0 s = .next t ∧ exec .op00E0 u = .next w) ∧
      ∃ t w, exec .op00EE s = .next t ∧ exec .op00EE u = .next w :=
  ⟨⟨_, rfl, by decide⟩, by unfold SameBlock; decide, rfl, by decide, by decide, by decide,
    ⟨_, _, rfl, rfl⟩, _, _, rfl, rfl⟩
theorem witness_NoHiddenState :
    let u : State := { State.reset.reporting (.fetchRange 4095) with schedule := [.readDT], cadence := .host }
    SameBlock State.reset u ∧ State.reset.draws = u.draws ∧ State.reset ≠ u ∧
      (∃ t w, exec .op00EE State.reset = .next t ∧ exec .op00EE u = .next w) ∧
      (∃ t w, blockStep State.reset = .next t ∧ blockStep u = .next w) ∧
      State.reset.result = ({ u with result := .nothing } : State).result :=
  ⟨by unfold SameBlock; decide, rfl, by decide, ⟨_, _, rfl, rfl⟩, ⟨_, _, rfl, rfl⟩, rfl⟩
/-- Each element changes somewhere. -/
theorem witness_OnlyNamedInstructionsWrite :
    (∃ t, exec (.opFX33 0) (withIndex [(0, 7)] 0x300 []) = .next t ∧ t.mem.read 0x302 = 7) ∧
    (∃ t, exec (.opANNN 1) State.reset = .next t ∧ t.i ≠ State.reset.i) ∧
    (∃ t, exec (.op2NNN 0) State.reset = .next t ∧ t.sp ≠ State.reset.sp ∧ t.stack ≠ State.reset.stack) ∧
    (∃ t, exec (.opFX15 0) (withRegs [(0, 7)]) = .next t ∧ t.dt ≠ 0) ∧
    (∃ t, exec (.opFX18 0) (withRegs [(0, 7)]) = .next t ∧ t.st ≠ 0) ∧
    (∃ t, exec .op00E0 (withPixels State.reset [(5, 5)]) = .next t ∧ t.fb ≠ (withPixels State.reset [(5, 5)]).fb ∧ t.dirty ≠ (withPixels State.reset [(5, 5)]).dirty) ∧
    ∃ t, exec (.opCXNN 0 0) State.reset = .next t ∧ t.draws ≠ 0 :=
  ⟨⟨_, rfl, by decide⟩, ⟨_, rfl, by decide⟩, ⟨_, rfl, by decide, by decide⟩, ⟨_, rfl, by decide⟩, ⟨_, rfl, by decide⟩,
    ⟨_, rfl, by decide, by decide⟩, _, rfl, by decide⟩
theorem witness_OnlyNamedRegistersWritten :
    ∃ t, exec (.op6XNN 3 7) State.reset = .next t ∧ t.V 3 ≠ State.reset.V 3 := ⟨_, rfl, by decide⟩
theorem witness_NextPCForms :
    (∃ t, exec (.op6XNN 3 7) State.reset = .next t) ∧ (∃ t, exec (.op3XNN 0 0) State.reset = .next t ∧ t.pc = 0x204) ∧
    (∃ t, exec (.op1NNN 0x226) State.reset = .next t) ∧ (∃ t, exec (.opBNNN 0x226) State.reset = .next t) ∧
    (∃ t, exec .op00EE (withCalls 1) = .next t ∧ t.pc = 0x302) ∧
    ∃ t, exec (.opFX0A 0) State.reset = .next t ∧ t.pc = State.reset.pc :=
  ⟨⟨_, rfl⟩, ⟨_, rfl, by decide⟩, ⟨_, rfl⟩, ⟨_, rfl⟩, ⟨_, rfl, by decide⟩, _, rfl, by decide⟩

end Sys2Proof.Tests
end

/-! ## What one instruction can do

One inversion lemma for `exec`, and from it one fact per element of the state. -/

section

namespace Sys2Proof.Proofs

open Sys2Proof Sys2Proof.Machine Sys2Proof.Safety

variable {i : Instr} {s t : State}

/-- The skips of 41_control_flow.md R118 and 44_input_timers.md R170, R171. -/
def IsSkip (i : Instr) : Prop :=
  (∃ x nn, i = .op3XNN x nn ∨ i = .op4XNN x nn) ∨ (∃ x y, i = .op5XY0 x y ∨ i = .op9XY0 x y) ∨
    ∃ x, i = .opEX9E x ∨ i = .opEXA1 x

/-- The instructions that write general registers and PC and nothing else, CXNN's draw apart (10_state.md R23). -/
def IsRegOp : Instr → Prop
  | .op6XNN _ _ | .op7XNN _ _ | .op8XY0 _ _ | .op8XY1 _ _ | .op8XY2 _ _ | .op8XY3 _ _ | .op8XY4 _ _ | .op8XY5 _ _
  | .op8XY6 _ _ | .op8XY7 _ _ | .op8XYE _ _ | .opFX07 _ | .opFX0A _ | .opFX65 _ => True
  | _ => False

/-- The register file changes from `v` to `v'` only where the instruction may write (10_state.md R22, R23). -/
def RegsWithin (i : Instr) (v v' : Vector Byte 16) : Prop := ∀ r : Reg, v'[r.val] ≠ v[r.val] → WritesReg i r

theorem RegsWithin.refl (v : Vector Byte 16) : RegsWithin i v v := fun _ h => absurd rfl h

theorem RegsWithin.set {v v' : Vector Byte 16} {x : Reg} (h : RegsWithin i v v') (hx : WritesReg i x) (b : Byte) :
    RegsWithin i v (v'.set x.val b) := by
  intro r hr
  by_cases hrx : r = x
  · exact hrx ▸ hx
  · rw [Vector.getElem_set_ne _ _ fun e => hrx (Fin.ext e.symm)] at hr
    exact h r hr

/-- FX65 writes V[0] to V[x] (43_index_memory.md R155). -/
theorem RegsWithin.setRegsFrom (v : Vector Byte 16) (x : Reg) {bytes : List Byte} (hb : bytes.length = x.val + 1) :
    RegsWithin (.opFX65 x) v (setRegsFrom v 0 bytes) := by
  intro r hr
  by_contra hgt
  have hlt : x.val < r.val := Nat.lt_of_not_le hgt
  exact hr (by rw [getElem_setRegsFrom, dif_neg (by omega)])

/-- `Effect s i t`: the instruction `i` can take `s` to `t`. A reported fault is the tabled one. The skips are taken
together, with any outcome of their condition, and so are the instructions that only write registers, with any values
where they may write; every other instruction has a case of its own. -/
inductive Effect (s : State) : Instr → State → Prop where
  | fault {i : Instr} {f : Fault} (hf : faultOf i s = some f) : Effect s i (s.reporting f)
  | wait (x : Reg) : Effect s (.opFX0A x) (s.returning .waiting)
  | clear : Effect s .op00E0 { s with fb := Framebuffer.clear, dirty := true }.advance
  | draw (x y : Reg) (n : Nat) (h : n = 0 ∨ s.dataInRange n) : Effect s (.opDXYN x y n)
      ({ s with fb := (s.spriteDrawn x y n).fb, dirty := true }.setV VF (flagOf (s.spriteDrawn x y n).collided)).advance
  | ret (h : s.sp.val ≠ 0) : Effect s .op00EE
      ({ s with sp := ⟨s.sp.val - 1, by omega⟩ }.jumpTo (s.stack[s.sp.val - 1]'(by omega) + 2))
  | call (nnn : Addr12) (h : s.sp.val < 16) : Effect s (.op2NNN nnn)
      ({ s with stack := s.stack.set s.sp.val s.pc h, sp := ⟨s.sp.val + 1, by omega⟩ }.jumpTo (zextAddr nnn))
  | jump (nnn : Addr12) : Effect s (.op1NNN nnn) (s.jumpTo (zextAddr nnn))
  | jumpOffset (nnn : Addr12) : Effect s (.opBNNN nnn) (s.jumpTo (zextAddr nnn + zextByte (s.V 0)))
  | skip {i : Instr} (hi : IsSkip i) (c : Bool) : Effect s i (s.skipIf c)
  | regs {i : Instr} {v : Vector Byte 16} (hi : IsRegOp i) (hv : RegsWithin i s.v v) :
      Effect s i { s with v := v }.advance
  | random (x : Reg) (nn : Byte) : Effect s (.opCXNN x nn) (s.drawn.setV x (s.rand8 &&& nn)).advance
  | setIndex (nnn : Addr12) : Effect s (.opANNN nnn) { s with i := zextAddr nnn }.advance
  | addIndex (x : Reg) : Effect s (.opFX1E x)
      { s.setV VF (pastMemoryFlag s.i (s.V x)) with
        i := s.i + zextByte ((s.setV VF (pastMemoryFlag s.i (s.V x))).V x) }.advance
  | glyph (x : Reg) : Effect s (.opFX29 x) { s with i := zextByte (s.V x) * 5 }.advance
  | decimal (x : Reg) (h : s.dataInRange 3) : Effect s (.opFX33 x)
      { s with mem := s.mem.storeBytes (s.dataAddr 0) (decimalDigits (s.V x)) }.advance
  | storeRegs (x : Reg) (h : s.dataInRange (x.val + 1)) : Effect s (.opFX55 x)
      { s with mem := s.mem.storeBytes (s.dataAddr 0) (s.firstRegs x) }.advance
  | delay (x : Reg) : Effect s (.opFX15 x) { s with dt := s.V x }.advance
  | sound (x : Reg) : Effect s (.opFX18 x) { s with st := s.V x }.advance

/-! ### The inversion lemma -/

theorem Effect.setReg {x : Reg} (hi : IsRegOp i) (hx : WritesReg i x) (b : Byte) :
    Effect s i (s.setV x b).advance :=
  .regs hi (RegsWithin.set (.refl _) hx b)

theorem Effect.setFlagThenReg {x : Reg} (hi : IsRegOp i) (hf : WritesReg i VF) (hx : WritesReg i x) (f b : Byte) :
    Effect s i ((s.setV VF f).setV x b).advance :=
  .regs hi (RegsWithin.set (RegsWithin.set (.refl _) hf f) hx b)

/-- A range check that fails is one that passes the top of memory (20_memory.md R55). -/
theorem not_dataInRange_iff (k : Nat) : ¬ s.dataInRange (k + 1) ↔ s.i.toNat + k > 4095 := by
  rw [State.dataInRange_iff]; omega

theorem effect_of_exec00EE (h : exec00EE s = .next t) : Effect s .op00EE t := by
  rcases State.pop_cases (s := s) with ⟨hsp, hp⟩ | ⟨hsp, hp⟩
  · simp only [exec00EE, hp, raise_eq, Host.Outcome.next.injEq] at h
    exact h ▸ .fault (if_pos hsp)
  · simp only [exec00EE, hp, Host.Outcome.next.injEq] at h
    exact h ▸ .ret hsp

theorem effect_of_exec2NNN {nnn : Addr12} (h : exec2NNN nnn s = .next t) : Effect s (.op2NNN nnn) t := by
  rcases State.push_cases (s := s) s.pc with ⟨hsp, hp⟩ | ⟨hsp, hp⟩
  · simp only [exec2NNN, hp, raise_eq, Host.Outcome.next.injEq] at h
    exact h ▸ .fault (if_pos hsp)
  · simp only [exec2NNN, hp, Host.Outcome.next.injEq] at h
    exact h ▸ .call nnn hsp

theorem effect_of_execDXYN {x y : Reg} {n : Nat} (h : execDXYN x y n s = .next t) : Effect s (.opDXYN x y n) t := by
  unfold execDXYN at h
  split at h
  next hr =>
    obtain ⟨k, rfl⟩ : ∃ k, n = k + 1 := ⟨n - 1, by omega⟩
    cases h
    exact .fault (if_pos ⟨hr.1, (not_dataInRange_iff k).mp hr.2⟩)
  next hr =>
    cases h
    exact .draw x y n ((Nat.eq_zero_or_pos n).imp_right fun hn => by_contra fun hd => hr ⟨hn, hd⟩)

theorem effect_of_execFX33 {x : Reg} (h : execFX33 x s = .next t) : Effect s (.opFX33 x) t := by
  unfold execFX33 at h
  split at h
  next hr => cases h; exact .decimal x hr
  next hr => cases h; exact .fault (if_pos ((not_dataInRange_iff 2).mp hr))

theorem effect_of_execFX55 {x : Reg} (h : execFX55 x s = .next t) : Effect s (.opFX55 x) t := by
  unfold execFX55 at h
  split at h
  next hr => cases h; exact .storeRegs x hr
  next hr => cases h; exact .fault (if_pos ((not_dataInRange_iff x.val).mp hr))

theorem effect_of_execFX65 {x : Reg} (h : execFX65 x s = .next t) : Effect s (.opFX65 x) t := by
  unfold execFX65 at h
  split at h
  next => cases h; exact .regs trivial (.setRegsFrom _ x Memory.length_loadBytes)
  next hr => cases h; exact .fault (if_pos ((not_dataInRange_iff x.val).mp hr))

theorem effect_of_execEX9E {x : Reg} (h : execEX9E x s = .next t) : Effect s (.opEX9E x) t := by
  unfold execEX9E at h
  split at h
  next hk => cases h; exact .fault (if_pos (keyOf_eq_none.mp hk))
  next => cases h; exact .skip (.inr (.inr ⟨x, .inl rfl⟩)) _

theorem effect_of_execEXA1 {x : Reg} (h : execEXA1 x s = .next t) : Effect s (.opEXA1 x) t := by
  unfold execEXA1 at h
  split at h
  next hk => cases h; exact .fault (if_pos (keyOf_eq_none.mp hk))
  next => cases h; exact .skip (.inr (.inr ⟨x, .inr rfl⟩)) _

theorem effect_of_execFX0A {x : Reg} (h : execFX0A x s = .next t) : Effect s (.opFX0A x) t := by
  unfold execFX0A at h
  split at h
  next => cases h; exact .wait x
  next => cases h; exact .setReg (x := x) (by trivial) (by simp [WritesReg]) _

/-- Everything an instruction can do. -/
theorem effect_of_exec (h : exec i s = .next t) : Effect s i t := by
  cases i with
  | op00EE => exact effect_of_exec00EE h
  | op2NNN => exact effect_of_exec2NNN h
  | opDXYN => exact effect_of_execDXYN h
  | opEX9E => exact effect_of_execEX9E h
  | opEXA1 => exact effect_of_execEXA1 h
  | opFX0A => exact effect_of_execFX0A h
  | opFX33 => exact effect_of_execFX33 h
  | opFX55 => exact effect_of_execFX55 h
  | opFX65 => exact effect_of_execFX65 h
  | op00E0 => cases h; exact .clear
  | op1NNN nnn => cases h; exact .jump nnn
  | opBNNN nnn => cases h; exact .jumpOffset nnn
  | op3XNN x nn => cases h; exact .skip (.inl ⟨x, nn, .inl rfl⟩) _
  | op4XNN x nn => cases h; exact .skip (.inl ⟨x, nn, .inr rfl⟩) _
  | op5XY0 x y => cases h; exact .skip (.inr (.inl ⟨x, y, .inl rfl⟩)) _
  | op9XY0 x y => cases h; exact .skip (.inr (.inl ⟨x, y, .inr rfl⟩)) _
  | opCXNN x nn => cases h; exact .random x nn
  | opANNN nnn => cases h; exact .setIndex nnn
  | opFX1E x => cases h; exact .addIndex x
  | opFX29 x => cases h; exact .glyph x
  | opFX15 x => cases h; exact .delay x
  | opFX18 x => cases h; exact .sound x
  | op6XNN x | op7XNN x | op8XY0 x | op8XY1 x | op8XY2 x | op8XY3 x | opFX07 x =>
    cases h; exact .setReg (x := x) (by trivial) (by simp [WritesReg]) _
  | op8XY4 x | op8XY5 x | op8XY6 x | op8XY7 x | op8XYE x =>
    cases h; exact .setFlagThenReg (x := x) (by trivial) (by simp [WritesReg]) (by simp [WritesReg]) _ _

end Sys2Proof.Proofs
end

/-! ## What changes an element of the state

One fact per element, read off the cases of `Effect`; the claims about one instruction are assembled from them. -/

section

namespace Sys2Proof.Proofs

open Sys2Proof Sys2Proof.Machine Sys2Proof.Safety

variable {i : Instr} {s t : State}

namespace Effect

/-- No instruction writes the input latch (10_state.md R33) or the model's schedule, cadence and owed tick. -/
theorem keeps_environment (h : Effect s i t) :
    t.key = s.key ∧ t.schedule = s.schedule ∧ t.cadence = s.cadence ∧ t.tickOwed = s.tickOwed := by
  cases h <;> exact ⟨rfl, rfl, rfl, rfl⟩

theorem mem_cases (h : Effect s i t) :
    t.mem = s.mem ∨ ((∃ x, i = .opFX33 x) ∨ ∃ x, i = .opFX55 x) ∧
      ∃ bytes : List Byte, s.dataInRange bytes.length ∧ t.mem = s.mem.storeBytes (s.dataAddr 0) bytes := by
  cases h with
  | decimal x hr => exact .inr ⟨.inl ⟨x, rfl⟩, decimalDigits (s.V x), hr, rfl⟩
  | storeRegs x hr => exact .inr ⟨.inr ⟨x, rfl⟩, _, by rwa [State.length_firstRegs], rfl⟩
  | _ => exact .inl rfl

theorem i_cases (h : Effect s i t) :
    t.i = s.i ∨ (∃ nnn, i = .opANNN nnn) ∨ (∃ x, i = .opFX1E x) ∨ ∃ x, i = .opFX29 x := by
  cases h with
  | setIndex nnn => exact .inr (.inl ⟨nnn, rfl⟩)
  | addIndex x => exact .inr (.inr (.inl ⟨x, rfl⟩))
  | glyph x => exact .inr (.inr (.inr ⟨x, rfl⟩))
  | _ => exact .inl rfl

theorem sp_cases (h : Effect s i t) : t.sp = s.sp ∨ i = .op00EE ∨ ∃ nnn, i = .op2NNN nnn := by
  cases h with
  | ret => exact .inr (.inl rfl)
  | call nnn => exact .inr (.inr ⟨nnn, rfl⟩)
  | _ => exact .inl rfl

/-- Only a call writes the stack array, its own address into STACK[SP] (10_state.md R28). -/
theorem stack_cases (h : Effect s i t) :
    t.stack = s.stack ∨ (∃ nnn, i = .op2NNN nnn) ∧ t.mem = s.mem ∧
      ∃ hsp : s.sp.val < 16, t.stack = s.stack.set s.sp.val s.pc hsp := by
  cases h with
  | call nnn hsp => exact .inr ⟨⟨nnn, rfl⟩, rfl, hsp, rfl⟩
  | _ => exact .inl rfl

theorem dt_cases (h : Effect s i t) : t.dt = s.dt ∨ ∃ x, i = .opFX15 x := by
  cases h with
  | delay x => exact .inr ⟨x, rfl⟩
  | _ => exact .inl rfl

theorem st_cases (h : Effect s i t) : t.st = s.st ∨ ∃ x, i = .opFX18 x := by
  cases h with
  | sound x => exact .inr ⟨x, rfl⟩
  | _ => exact .inl rfl

/-- The screen and DIRTY change only together, by an instruction that draws (10_state.md R31, R32). -/
theorem display_cases (h : Effect s i t) :
    (t.fb = s.fb ∧ t.dirty = s.dirty) ∨
      t.dirty = true ∧ (i = .op00E0 ∨ ∃ x y n, i = .opDXYN x y n) := by
  cases h with
  | clear => exact .inr ⟨rfl, .inl rfl⟩
  | draw x y n => exact .inr ⟨rfl, .inr ⟨x, y, n, rfl⟩⟩
  | _ => exact .inl ⟨rfl, rfl⟩

theorem draws_cases (h : Effect s i t) : t.draws = s.draws ∨ ∃ x nn, i = .opCXNN x nn := by
  cases h with
  | random x nn => exact .inr ⟨x, nn, rfl⟩
  | _ => exact .inl rfl

theorem regsWithin (h : Effect s i t) : RegsWithin i s.v t.v := by
  cases h with
  | regs _ hv => exact hv
  | draw | addIndex | random => exact RegsWithin.set (.refl _) (by simp [WritesReg]) _
  | _ => exact .refl _

/-- 00E0 sets DIRTY, and so does DXYN unless it reports a fault (10_state.md R32). -/
theorem dirty_of_drawing (h : Effect s i t)
    (hi : i = .op00E0 ∨ ∃ x y n, i = .opDXYN x y n ∧ t.faults = s.faults) : t.dirty = true := by
  cases h with
  | clear | draw => rfl
  | fault hf =>
    rcases hi with rfl | ⟨_, _, _, -, hlog⟩
    · simp [faultOf] at hf
    · simp at hlog
  | skip hs => rcases hi with rfl | ⟨_, _, _, rfl, -⟩ <;> simp [IsSkip] at hs
  | regs hr => rcases hi with rfl | ⟨_, _, _, rfl, -⟩ <;> exact hr.elim
  | _ => simp at hi

end Effect

/-! ### The claims about one instruction -/

/-- Settles O58: each element's cases of `Effect`, taken together. -/
theorem onlyNamedInstructionsWrite : Obligations.OnlyNamedInstructionsWrite := by
  intro i s t h
  have he := effect_of_exec h
  refine ⟨fun hm => ?_, he.i_cases.resolve_left, he.sp_cases.resolve_left, fun hs => (he.stack_cases.resolve_left hs).1,
    he.dt_cases.resolve_left, he.st_cases.resolve_left, fun hf => ?_, fun hd => ?_, he.draws_cases.resolve_left,
    he.keeps_environment⟩
  · exact (he.mem_cases.resolve_left fun e => hm fun a => by rw [e]).1
  · exact (he.display_cases.resolve_left fun e => hf e.1).2
  · exact (he.display_cases.resolve_left fun e => hd e.2).2

/-- Settles O59: the register file changes within what the instruction may write. -/
theorem onlyNamedRegistersWritten : Obligations.OnlyNamedRegistersWritten :=
  fun _ _ _ r h => (effect_of_exec h).regsWithin r

/-- Neither a jump, a call nor a return (41_control_flow.md). -/
def NoTransfer (i : Instr) : Prop := i ≠ .op00EE ∧ ∀ nnn, i ≠ .op1NNN nnn ∧ i ≠ .op2NNN nnn ∧ i ≠ .opBNNN nnn

theorem IsSkip.noTransfer (h : IsSkip i) : NoTransfer i := by
  rcases h with ⟨x, nn, rfl | rfl⟩ | ⟨x, y, rfl | rfl⟩ | ⟨x, rfl | rfl⟩ <;> simp [NoTransfer]

theorem IsRegOp.noTransfer (h : IsRegOp i) : NoTransfer i := by
  refine ⟨?_, fun nnn => ⟨?_, ?_, ?_⟩⟩ <;> rintro rfl <;> exact h

/-- Settles O60, by the cases of `Effect`. -/
theorem nextPCForms : Obligations.NextPCForms := by
  intro i s t h
  cases effect_of_exec h with
  | fault => exact .inr (.inr (.inr (.inr (.inr ⟨rfl, .inr ⟨_, rfl⟩⟩))))
  | wait x => exact .inr (.inr (.inr (.inr (.inr ⟨rfl, .inl ⟨rfl, x, rfl⟩⟩))))
  | ret hsp => exact .inr (.inr (.inr (.inr (.inl ⟨Nat.pos_of_ne_zero hsp, rfl, rfl⟩))))
  | jumpOffset nnn => exact .inr (.inr (.inr (.inl ⟨nnn, rfl, rfl⟩)))
  | jump nnn => exact .inr (.inr (.inl ⟨nnn, .inl rfl, rfl⟩))
  | call nnn => exact .inr (.inr (.inl ⟨nnn, .inr rfl, rfl⟩))
  | skip hi c =>
    cases c with
    | true => exact .inr (.inl ⟨rfl, hi⟩)
    | false => exact .inl ⟨rfl, hi.noTransfer⟩
  | regs hi => exact .inl ⟨rfl, hi.noTransfer⟩
  | _ => exact .inl ⟨rfl, by simp⟩

end Sys2Proof.Proofs
end

/-! ## What one operation of the host can do

One inversion lemma for `perform`, and from it the claims about the whole machine's steps. -/

section

namespace Sys2Proof.Proofs

open Sys2Proof Sys2Proof.Machine Sys2Proof.Safety

variable {s t : State} {op : HostOp}

/-- `Performed s op t`: the host's operation `op` can take `s` to `t`. The readouts are taken together: each answers a
value and changes nothing else. -/
inductive Performed (s : State) : HostOp → State → Prop where
  | step {t : State} (ho : s.tickOwed = false) (h : blockStep s.stepBegun = .next t) : Performed s .step t
  | tick (ho : s.tickOwed = true ∨ s.cadence = .host) : Performed s .tick (s.tick.tickPaid.returning .nothing)
  | init : Performed s .init (s.init.returning .nothing)
  | loaded {image : List Byte} (hl : image.length ≤ 3584) :
      Performed s (.loadProgram image) ({ s with mem := s.mem.storeBytes 512 image }.returning .loaded)
  | rejected {image : List Byte} (hl : image.length > 3584) :
      Performed s (.loadProgram image) (s.reporting (.loadTooLarge image.length))
  | keySet (k : Key) (down : Bool) : Performed s (.setKey k down) ((s.setKey k down).returning .nothing)
  | cleared : Performed s .clearDirty (s.clearDirty.returning .nothing)
  | read {op : HostOp} (r : OpResult)
      (ho : op = .readDirty ∨ op = .readDT ∨ op = .readST ∨ ∃ px py, op = .readPixel px py) : Performed s op (s.returning r)

/-- Everything an operation of the host can do. -/
theorem performed_of_perform (h : perform op s = .next t) : Performed s op t := by
  cases op with
  | step =>
    rcases perform_step_cases (s := s) with ⟨-, e⟩ | ⟨ho, e⟩ <;> rw [e] at h
    · cases h
    · exact .step ho h
  | tick =>
    rcases perform_tick_cases (s := s) with ⟨-, -, e⟩ | ⟨ho, e⟩ <;> rw [e] at h <;> cases h
    exact .tick ho
  | loadProgram image =>
    simp only [perform, State.loadProgram, Host.Outcome.next.injEq] at h
    split at h <;> subst h
    next hl => exact .rejected hl
    next hl => exact .loaded (Nat.le_of_not_lt hl)
  | init => cases h; exact .init
  | setKey k down => cases h; exact .keySet k down
  | clearDirty => cases h; exact .cleared
  | readDirty | readDT | readST | readPixel => cases h; exact .read _ (by simp)

/-- The operation is performed on the state whose schedule is the rest (log entry 15). -/
theorem nextOp_state (s : State) : s.nextOp.2 = { s with schedule := s.schedule.tail } := by
  unfold State.nextOp
  split
  next h => rw [h, List.tail_nil, ← h]
  next h => rw [h, List.tail_cons]

/-- Everything one step of the machine can do. -/
theorem performed_of_step (h : step s = .next t) :
    Performed { s with schedule := s.schedule.tail } s.nextOp.1 t := by
  rw [step, nextOp_state] at h
  exact performed_of_perform h

/-- Everything `step()` can do, with what the instruction does. -/
theorem blockStep_effect (h : blockStep s = .next t) :
    (s.pc.toNat > 4094 ∧ t = s.reporting (.fetchRange s.pc)) ∨
    (s.pc.toNat ≤ 4094 ∧ t = s.advance.reporting (.decodeFault s.pc s.fetch)) ∨
    ∃ i, s.pc.toNat ≤ 4094 ∧ decode s.fetch = some i ∧ exec i (s.returning .ok) = .next t := by
  rcases blockStep_cases (s := s) with ⟨hpc, e⟩ | ⟨hpc, -, e⟩ | ⟨i, hpc, hd, e⟩ <;> rw [e] at h
  · cases h; exact .inl ⟨hpc, rfl⟩
  · cases h; exact .inr (.inl ⟨hpc, rfl⟩)
  · exact .inr (.inr ⟨i, hpc, hd, h⟩)

/-! ### The delay timer and DIRTY -/

theorem blockStep_dt (h : blockStep s = .next t) :
    t.dt = s.dt ∨ ∃ x, s.pc.toNat ≤ 4094 ∧ decode s.fetch = some (.opFX15 x) := by
  rcases blockStep_effect h with ⟨-, rfl⟩ | ⟨-, rfl⟩ | ⟨i, hpc, hd, hx⟩
  · exact .inl rfl
  · exact .inl rfl
  · exact (effect_of_exec hx).dt_cases.imp_right fun ⟨x, hi⟩ => ⟨x, hpc, hi ▸ hd⟩

/-- Settles O28: of the operations, `tick()` and `init()` lower DT, and only `step()` can raise it. -/
theorem delayTimerRisesOnlyByFX15 : Obligations.DelayTimerRisesOnlyByFX15 := by
  intro s t h hlt
  generalize hop : s.nextOp.1 = op
  have hp := performed_of_step h
  rw [hop] at hp
  cases hp with
  | step _ hb =>
    obtain ⟨x, hx⟩ := (blockStep_dt hb).resolve_left fun e => absurd hlt (by simp [e])
    exact ⟨x, rfl, hx⟩
  | tick => simp [countDown_toNat] at hlt; omega
  | _ => simp at hlt

theorem dirty_of_exec {i : Instr} (h : exec i s = .next t) (hd : s.dirty = true) : t.dirty = true :=
  (effect_of_exec h).display_cases.elim (fun e => e.2.trans hd) And.left

theorem dirty_of_blockStep (h : blockStep s = .next t) (hd : s.dirty = true) : t.dirty = true := by
  rcases blockStep_effect h with ⟨-, rfl⟩ | ⟨-, rfl⟩ | ⟨i, -, -, hx⟩
  · exact hd
  · exact hd
  · exact dirty_of_exec hx hd

/-- Settles O55: instructions by `Effect`, the host's operations by `Performed`. -/
theorem dirtyIsSetByDrawingOnly : Obligations.DirtyIsSetByDrawingOnly := by
  refine ⟨fun i s t h => ⟨dirty_of_exec h, (effect_of_exec h).dirty_of_drawing, fun hs ht => ?_⟩,
    fun s => ⟨rfl, rfl⟩, fun s t h hs ht => ?_⟩
  · exact ((effect_of_exec h).display_cases.resolve_left fun e => by simp [e.2, hs] at ht).2
  · generalize hop : s.nextOp.1 = op
    have hp := performed_of_step h
    rw [hop] at hp
    cases hp with
    | step _ hb => simp [dirty_of_blockStep hb hs] at ht
    | init => exact .inr rfl
    | cleared => exact .inl rfl
    | _ => simp [hs] at ht

/-! ### The invariant -/

@[simp] theorem toNat_zextAddr (a : Addr12) : (zextAddr a).toNat = a.toNat :=
  BitVec.toNat_setWidth_of_le (by decide)

@[simp] theorem toNat_zextByte (b : Byte) : (zextByte b).toNat = b.toNat :=
  BitVec.toNat_setWidth_of_le (by decide)

/-- The largest next PC is BNNN's, 0xFFF + 0xFF; the skips and returns reach 4098 at most (10_state.md R24, R25). -/
theorem exec_pc_le {i : Instr} (hpc : s.pc.toNat ≤ 4094) (hstack : ∀ j : Fin 16, s.stack[j.val].toNat ≤ 4094)
    (h : exec i s = .next t) : t.pc.toNat ≤ 0x10FE := by
  rcases nextPCForms i s t h with ⟨e, -⟩ | ⟨e, -⟩ | ⟨nnn, -, e⟩ | ⟨nnn, -, e⟩ | ⟨hsp, -, e⟩ | ⟨e, -⟩ <;> rw [e]
  · bv_omega
  · bv_omega
  · have := nnn.isLt
    rw [toNat_zextAddr]; omega
  · have := nnn.isLt
    have := (s.V 0).isLt
    rw [BitVec.toNat_add, toNat_zextAddr, toNat_zextByte]; omega
  · have := hstack ⟨s.sp.val - 1, by omega⟩
    bv_omega
  · omega

/-- What an instruction keeps when it was fetched, so that PC is at most 4094 before it. -/
theorem exec_keeps_invariant {i : Instr} (hpc : s.pc.toNat ≤ 4094) (hi : Invariant s) (h : exec i s = .next t) :
    Invariant t := by
  obtain ⟨hmem, -, hstack, howed⟩ := hi
  have he := effect_of_exec h
  obtain ⟨-, -, hcad, hown⟩ := he.keeps_environment
  refine ⟨?_, exec_pc_le hpc hstack h, fun j => ?_, by rwa [hcad, hown]⟩
  · rcases he.mem_cases with e | ⟨-, bytes, hr, e⟩ <;> rw [e]
    · exact hmem
    · exact Memory.wf_storeBytes hmem hr
  · rcases he.stack_cases with e | ⟨-, -, hsp, e⟩
    · rw [e]; exact hstack j
    · simp only [e, Vector.getElem_set]
      split
      · exact hpc
      · exact hstack j

theorem blockStep_keeps_invariant (hi : Invariant s) (h : blockStep s = .next t) : Invariant t := by
  rcases blockStep_effect h with ⟨-, rfl⟩ | ⟨hpc, rfl⟩ | ⟨i, hpc, -, hx⟩
  · exact hi
  · obtain ⟨hmem, -, hstack, howed⟩ := hi
    refine ⟨hmem, ?_, hstack, howed⟩
    simp only [State.reporting_pc, State.advance_pc]
    bv_omega
  · exact exec_keeps_invariant (s := s.returning .ok) hpc hi hx

/-- A step under HOST owes no tick. -/
theorem stepBegun_keeps_invariant (hi : Invariant s) : Invariant s.stepBegun := by
  obtain ⟨hmem, hpc, hstack, -⟩ := hi
  exact ⟨hmem, hpc, hstack, fun hc => by simp_all [owesTick]⟩

theorem invariant_of_performed (hi : Invariant s) (h : Performed s op t) : Invariant t := by
  have ⟨hmem, hpc, hstack, howed⟩ := hi
  cases h with
  | step _ hb => exact blockStep_keeps_invariant (stepBegun_keeps_invariant hi) hb
  | tick => exact ⟨hmem, hpc, hstack, fun _ => rfl⟩
  | init => exact ⟨hmem, by simp, by simp, howed⟩
  | loaded hl => exact ⟨Memory.wf_storeBytes hmem (by simp only [InRange]; omega), hpc, hstack, howed⟩
  | _ => exact ⟨hmem, hpc, hstack, howed⟩

/-- Settles O13: every operation of the host keeps the invariant, whatever is scheduled after it. -/
theorem stepKeepsInv : Obligations.StepKeepsInv := fun s _ hi h =>
  invariant_of_performed (s := { s with schedule := s.schedule.tail }) hi (performed_of_step h)

/-! ### The machine just created -/

/-- Settles O14: no byte is listed, the stack is all zeros, and no tick is owed. -/
theorem invAtReset : Obligations.InvAtReset := by
  refine ⟨rfl, by decide, fun j => ?_, fun _ => rfl⟩
  simp [State.reset]

/-- Settles O20: memory lists nothing, so it reads as at `create()`. -/
theorem resetValues : Obligations.ResetValues := by
  refine ⟨rfl, fun r => ?_, rfl, rfl, fun j => ?_, rfl, rfl, Framebuffer.pixel_clear, rfl, fun k => ?_,
    fun a ha => Memory.atCreate_past_font ha, by decide, rfl⟩
  · simp [State.V, State.reset]
  · simp [State.reset]
  · simp [State.keyDown, State.reset]

end Sys2Proof.Proofs
end

/-! ## Two runs of one instruction

An instruction reads the block and the random byte, and of the stack array only the entry that 00EE pops. So a run from
`beside s u`, which is `s` but for the parts an instruction does not read, goes as the run from `s` does. -/

section

namespace Sys2Proof.Proofs

open Sys2Proof Sys2Proof.Machine Sys2Proof.Safety

variable {i : Instr} {s u t w : State}

/-- `s` with the stack array of `u` and the model's fields of `u`, the draw count excepted. -/
def beside (s u : State) : State :=
  { s with
    stack := u.stack, cadence := u.cadence, tickOwed := u.tickOwed, schedule := u.schedule, result := u.result
    faults := u.faults }

@[simp] theorem V_beside (s u : State) (r : Reg) : (beside s u).V r = s.V r := rfl
@[simp] theorem leastKeyDown_beside (s u : State) : (beside s u).leastKeyDown = s.leastKeyDown := rfl
@[simp] theorem fetch_beside (s u : State) : (beside s u).fetch = s.fetch := rfl

theorem eq_beside_iff : w = beside t w ↔ SameBlock { t with stack := w.stack } w ∧ t.draws = w.draws := by
  cases w
  cases t
  simp only [beside, SameBlock, State.mk.injEq, true_and, and_true]
  tauto

theorem kept_of_eq_beside (h : w = beside t u) : w.stack = u.stack ∧ w.result = u.result ∧ w.faults = u.faults := by
  subst h
  exact ⟨rfl, rfl, rfl⟩

theorem sameBlock_iff : SameBlock t w ↔ SameBlock { t with stack := w.stack } w ∧ w.stack = t.stack := by
  simp only [SameBlock, true_and]
  tauto

theorem eq_beside_of_sameBlock (h : SameBlock s u) (hd : s.draws = u.draws) : u = beside s u ∧ s.stack = u.stack := by
  obtain ⟨hb, hst⟩ := sameBlock_iff.mp h
  exact ⟨eq_beside_iff.mpr ⟨hb, hd⟩, hst.symm⟩

/-- Both runs report the same: nothing, a wait, or one fault record. -/
def SameReport (s t u w : State) : Prop :=
  (t.result = s.result ∧ t.faults = s.faults ∧ w.result = u.result ∧ w.faults = u.faults) ∨
  (t.result = .waiting ∧ t.faults = s.faults ∧ w.result = .waiting ∧ w.faults = u.faults) ∨
  ∃ f, t.result = .fault f ∧ t.faults = f :: s.faults ∧ w.result = .fault f ∧ w.faults = f :: u.faults

theorem SameReport.result_eq (h : SameReport s t u w) (hr : s.result = u.result) : t.result = w.result := by
  rcases h with ⟨ht, -, hw, -⟩ | ⟨ht, -, hw, -⟩ | ⟨f, ht, -, hw, -⟩
  · rw [ht, hw, hr]
  · rw [ht, hw]
  · rw [ht, hw]

theorem SameReport.logged_iff (h : SameReport s t u w) (f : Fault) :
    t.faults = f :: s.faults ↔ w.faults = f :: u.faults := by
  rcases h with ⟨-, ht, -, hw⟩ | ⟨-, ht, -, hw⟩ | ⟨g, -, ht, -, hw⟩ <;> simp [ht, hw]

/-- What a run from `s` to `t` has in common with one from `u` to `w`: but for the stack array the blocks end equal,
the array agrees wherever it did and in a new entry below SP, and the reports are equal. -/
structure RunsAlike (s t u w : State) : Prop where
  block : w = beside t w
  stack : ∀ j : Fin 16, s.stack[j.val] = u.stack[j.val] ∨ s.sp.val ≤ j.val ∧ j.val < t.sp.val →
    t.stack[j.val] = w.stack[j.val]
  report : SameReport s t u w

/-- Two outcomes, from `s` and from `u`, that are next states of runs alike. -/
def OutcomesAlike (s u : State) (o o' : Host.Outcome State Fault Refusal) : Prop :=
  ∃ t w, o = .next t ∧ o' = .next w ∧ RunsAlike s t u w

/-! ### The ways an instruction ends -/

theorem alike_of_stack_kept (hb : w = beside t w) (ht : t.stack = s.stack) (hw : w.stack = u.stack) (hsp : t.sp ≤ s.sp)
    (hr : SameReport s t u w) : OutcomesAlike s u (.next t) (.next w) :=
  ⟨t, w, rfl, rfl, hb, fun _ hj => ht ▸ hw ▸ hj.resolve_right fun ⟨h, h'⟩ => Nat.not_lt.mpr h (h'.trans_le hsp), hr⟩

theorem alike_silent (ht : t = beside t s) (hw : w = beside t u) (hsp : t.sp ≤ s.sp) :
    OutcomesAlike s u (.next t) (.next w) := by
  obtain ⟨hts, htr, htf⟩ := kept_of_eq_beside ht
  obtain ⟨hws, hwr, hwf⟩ := kept_of_eq_beside hw
  exact alike_of_stack_kept (by rw [hw]; rfl) hts hws hsp (.inl ⟨htr, htf, hwr, hwf⟩)

theorem alike_waiting (s u : State) :
    OutcomesAlike s (beside s u) (.next (s.returning .waiting)) (.next ((beside s u).returning .waiting)) :=
  alike_of_stack_kept rfl rfl rfl le_rfl (.inr (.inl ⟨rfl, rfl, rfl, rfl⟩))

theorem alike_fault (s u : State) (f : Fault) : OutcomesAlike s (beside s u) (raise f s) (raise f (beside s u)) :=
  alike_of_stack_kept rfl rfl rfl le_rfl (.inr (.inr ⟨f, rfl, rfl, rfl, rfl⟩))

theorem alike_ite {c : Prop} [Decidable c] {a b a' b' : Host.Outcome State Fault Refusal}
    (ha : OutcomesAlike s u a a') (hb : OutcomesAlike s u b b') :
    OutcomesAlike s u (if c then a else b) (if c then a' else b') := by
  split
  · exact ha
  · exact hb

/-! ### The instructions -/

/-- A return reads one entry of the array, the one below SP (10_state.md R28). -/
theorem exec00EE_alike (s u : State)
    (hread : ∀ j : Fin 16, j.val + 1 = s.sp.val → s.stack[j.val] = u.stack[j.val]) :
    OutcomesAlike s (beside s u) (exec00EE s) (exec00EE (beside s u)) := by
  rcases State.pop_cases (s := s) with ⟨hsp, hp⟩ | ⟨hsp, hp⟩
  · have hp' : (beside s u).pop = none := dif_pos hsp
    simp only [exec00EE, hp, hp']
    exact alike_fault s u _
  · have hp' : (beside s u).pop =
        some (u.stack[s.sp.val - 1]'(by omega), { beside s u with sp := ⟨s.sp.val - 1, by omega⟩ }) := dif_neg hsp
    have hj := hread ⟨s.sp.val - 1, by omega⟩ (Nat.sub_add_cancel (Nat.pos_of_ne_zero hsp))
    simp only [exec00EE, hp, hp', ← hj]
    exact alike_silent rfl rfl (Nat.sub_le _ _)

/-- A call writes one entry of the array, PC at SP, and reads none (10_state.md R28). -/
theorem exec2NNN_alike (nnn : Addr12) (s u : State) :
    OutcomesAlike s (beside s u) (exec2NNN nnn s) (exec2NNN nnn (beside s u)) := by
  rcases State.push_cases (s := s) s.pc with ⟨hsp, hp⟩ | ⟨hsp, hp⟩
  · have hp' : (beside s u).push (beside s u).pc = none := dif_neg (Nat.not_lt.mpr hsp.ge)
    simp only [exec2NNN, hp, hp']
    exact alike_fault s u _
  · have hp' : (beside s u).push (beside s u).pc = some
        { beside s u with stack := u.stack.set s.sp.val s.pc hsp, sp := ⟨s.sp.val + 1, by omega⟩ } := dif_pos hsp
    simp only [exec2NNN, hp, hp']
    refine ⟨_, _, rfl, rfl, rfl, fun j hj => ?_, .inl ⟨rfl, rfl, rfl, rfl⟩⟩
    simp only [State.jumpTo_stack, State.jumpTo_sp, Vector.getElem_set] at hj ⊢
    split
    · rfl
    next hne => exact hj.resolve_right fun ⟨h, h'⟩ => hne (Nat.le_antisymm h (Nat.le_of_lt_succ h'))

/-- Every instruction runs alike from `s` and beside it, given for 00EE that the entry it pops is the same. -/
theorem exec_alike (i : Instr) (s u : State)
    (hread : i = .op00EE → ∀ j : Fin 16, j.val + 1 = s.sp.val → s.stack[j.val] = u.stack[j.val]) :
    OutcomesAlike s (beside s u) (exec i s) (exec i (beside s u)) := by
  cases i with
  | op00EE => exact exec00EE_alike s u (hread rfl)
  | op2NNN nnn => exact exec2NNN_alike nnn s u
  | opDXYN => exact alike_ite (alike_fault s u _) (alike_silent rfl rfl le_rfl)
  | opFX33 | opFX55 | opFX65 => exact alike_ite (alike_silent rfl rfl le_rfl) (alike_fault s u _)
  | opEX9E x | opEXA1 x =>
    simp only [exec, execEX9E, execEXA1, V_beside]
    cases keyOf (s.V x) with
    | none => exact alike_fault s u _
    | some k => exact alike_silent rfl rfl le_rfl
  | opFX0A =>
    simp only [exec, execFX0A, leastKeyDown_beside]
    cases s.leastKeyDown with
    | none => exact alike_waiting s u
    | some k => exact alike_silent rfl rfl le_rfl
  | _ => exact alike_silent rfl rfl le_rfl

theorem runsAlike_of_outcomes {o o' : Host.Outcome State Fault Refusal} (h : OutcomesAlike s u o o') (ht : o = .next t)
    (hw : o' = .next w) : RunsAlike s t u w := by
  obtain ⟨t', w', rfl, rfl, ha⟩ := h
  cases ht
  cases hw
  exact ha

theorem runsAlike_of_exec (hb : u = beside s u)
    (hread : i = .op00EE → ∀ j : Fin 16, j.val + 1 = s.sp.val → s.stack[j.val] = u.stack[j.val])
    (ht : exec i s = .next t) (hw : exec i u = .next w) : RunsAlike s t u w :=
  runsAlike_of_outcomes (hb ▸ exec_alike i s u hread) ht hw

/-- A step runs alike from two states with the same block: it fetches the same word, and presets the same result. -/
theorem blockStep_alike (s u : State) (hst : s.stack = u.stack) :
    OutcomesAlike (s.returning .ok) ((beside s u).returning .ok) (blockStep s) (blockStep (beside s u)) := by
  rcases blockStep_cases (s := s) with ⟨hpc, e⟩ | ⟨hpc, hd, e⟩ | ⟨i, hpc, hd, e⟩
  · have e' : blockStep (beside s u) = .next _ := if_pos hpc
    rw [e, e']
    exact alike_of_stack_kept rfl rfl rfl le_rfl (.inr (.inr ⟨_, rfl, rfl, rfl, rfl⟩))
  · have e' : blockStep (beside s u) = _ := if_neg (Nat.not_lt.mpr hpc)
    rw [e, e', fetch_beside, hd]
    exact alike_of_stack_kept rfl rfl rfl le_rfl (.inr (.inr ⟨_, rfl, rfl, rfl, rfl⟩))
  · have e' : blockStep (beside s u) = _ := if_neg (Nat.not_lt.mpr hpc)
    rw [e, e', fetch_beside, hd]
    exact exec_alike i (s.returning .ok) (u.returning .ok) fun _ j _ => by
      simp only [State.returning_stack, hst]

/-! ### The claims about two runs -/

/-- Settles O56: a call by `Effect`, the two comparisons by runs alike. -/
theorem staleStackEntriesUnobservable : Obligations.StaleStackEntriesUnobservable := by
  refine ⟨fun i s t h hne => ?_, fun i s u t w hb hdr hi ht hw => ?_, fun i s u t w hb hdr hst ht hw => ?_⟩
  · obtain ⟨hcall, hmem, hsp, hs⟩ := (effect_of_exec h).stack_cases.resolve_left hne
    refine ⟨hcall, fun j hj => ?_, fun _ => ?_, fun a => by rw [hmem]⟩
    · simp only [hs, Vector.getElem_set_ne hsp j.isLt (Ne.symm hj)]
    · simp only [hs, Vector.getElem_set_self]
  · have ha := runsAlike_of_exec (eq_beside_iff.mpr ⟨hb, hdr⟩) (fun e => absurd e hi) ht hw
    exact (eq_beside_iff.mp ha.block).1
  · have ha := runsAlike_of_exec (eq_beside_iff.mpr ⟨hb, hdr⟩) (fun _ j hj => hst j (by omega)) ht hw
    exact ⟨(eq_beside_iff.mp ha.block).1, fun j hj => ha.stack j ((Nat.lt_or_ge j.val s.sp.val).imp (hst j) (⟨·, hj⟩))⟩

/-- Runs alike with equal stack arrays before them end with the same block, the same draws and the same report. -/
theorem RunsAlike.sameBlock (h : RunsAlike s t u w) (hst : s.stack = u.stack) :
    SameBlock t w ∧ t.draws = w.draws ∧ (s.result = u.result → t.result = w.result) ∧
      ∀ f, t.faults = f :: s.faults ↔ w.faults = f :: u.faults := by
  obtain ⟨hb, hdr⟩ := eq_beside_iff.mp h.block
  have hstack : w.stack = t.stack := Vector.ext fun j hj => (h.stack ⟨j, hj⟩ (.inl (by simp only [hst]))).symm
  exact ⟨sameBlock_iff.mpr ⟨hb, hstack⟩, hdr, h.report.result_eq, h.report.logged_iff⟩

/-- Settles O57: states with the same block and draw count are beside each other, and their stack arrays are equal. -/
theorem noHiddenState : Obligations.NoHiddenState := by
  refine ⟨fun i s u t w hsame hdr ht hw => ?_, fun s u t w hsame hdr ht hw => ?_⟩
  · obtain ⟨hu, hst⟩ := eq_beside_of_sameBlock hsame hdr
    exact (runsAlike_of_exec hu (fun _ j _ => by simp only [hst]) ht hw).sameBlock hst
  · obtain ⟨hu, hst⟩ := eq_beside_of_sameBlock hsame hdr
    have ha : OutcomesAlike (s.returning .ok) (u.returning .ok) (blockStep s) (blockStep u) :=
      hu ▸ blockStep_alike s u hst
    obtain ⟨hblock, hdraws, hres, hlog⟩ := (runsAlike_of_outcomes ha ht hw).sameBlock hst
    exact ⟨hblock, hdraws, hres rfl, hlog⟩

end Sys2Proof.Proofs
end

/-! ## Order of operations, fetch after a store, canonical memories

What every operation of the host leaves to the next one, what a fetch reads on stored bytes, and that the canonical form
of a memory is unique. -/

section

namespace Sys2Proof.Proofs

open Sys2Proof Sys2Proof.Machine Sys2Proof.Safety

variable {s t u : State}

/-! ### The schedule and the cadence -/

/-- No outcome of `step()` writes the schedule, the cadence or the owed tick. -/
theorem blockStep_keeps_environment (h : blockStep s = .next t) :
    t.schedule = s.schedule ∧ t.cadence = s.cadence ∧ t.tickOwed = s.tickOwed := by
  rcases blockStep_effect h with ⟨-, rfl⟩ | ⟨-, rfl⟩ | ⟨i, -, -, hx⟩
  · exact ⟨rfl, rfl, rfl⟩
  · exact ⟨rfl, rfl, rfl⟩
  · exact (effect_of_exec hx).keeps_environment.2

/-- No operation of the host writes the schedule or the cadence (log entry 15). -/
theorem Performed.keeps_schedule {op : HostOp} (h : Performed s op t) :
    t.schedule = s.schedule ∧ t.cadence = s.cadence := by
  cases h with
  | step _ hb =>
    obtain ⟨hsch, hcad, -⟩ := blockStep_keeps_environment hb
    exact ⟨hsch, hcad⟩
  | _ => exact ⟨rfl, rfl⟩

/-- Settles O16: the two forms of the schedule, and what the performed operation leaves of it. -/
theorem operationsRunInOrder : Obligations.OperationsRunInOrder := fun _ =>
  ⟨fun _ _ => step_of_scheduled, step_of_idle, fun _ h => (performed_of_step h).keeps_schedule⟩

/-! ### A fetch after a store -/

@[simp] theorem highByte_opcodeOf (hi lo : Byte) : highByte (opcodeOf hi lo) = hi :=
  BitVec.extractLsb'_append_eq_left

@[simp] theorem lowByte_opcodeOf (hi lo : Byte) : lowByte (opcodeOf hi lo) = lo :=
  BitVec.extractLsb'_append_eq_right

/-- The high half of the opcode is the byte at PC (20_memory.md R52). -/
theorem highByte_fetch (u : State) : highByte u.fetch = u.mem.read u.pc.toNat :=
  highByte_opcodeOf _ _

/-- The low half of the opcode is the byte at PC + 1 (20_memory.md R52). -/
theorem lowByte_fetch (u : State) : lowByte u.fetch = u.mem.read (u.pc.toNat + 1) :=
  lowByte_opcodeOf _ _

/-- Where memory is that of `s` with the bytes stored, each half of a fetch reads over the store. -/
theorem fetchReads_of_storeBytes {a : Nat} {bytes : List Byte} (h : u.mem = s.mem.storeBytes a bytes) :
    FetchReads s u a bytes := by
  simp only [FetchReads, highByte_fetch, lowByte_fetch, h]
  refine ⟨fun k hk => ⟨fun hpc => ?_, fun hpc => ?_⟩, Memory.read_storeBytes_outside, Memory.read_storeBytes_outside⟩
  · rw [hpc, Memory.read_storeBytes_inside hk]
  · rw [hpc, Memory.read_storeBytes_inside hk]

/-- FX55 in range (43_index_memory.md R154). -/
theorem exec_opFX55_inRange {x : Reg} (h : s.i.toNat + x.val ≤ 4095) :
    exec (.opFX55 x) s = .next { s with mem := s.mem.storeBytes (s.dataAddr 0) (s.firstRegs x) }.advance :=
  if_pos (Nat.succ_le_succ h)

/-- FX33 in range (43_index_memory.md R153). -/
theorem exec_opFX33_inRange {x : Reg} (h : s.i.toNat + 2 ≤ 4095) :
    exec (.opFX33 x) s = .next { s with mem := s.mem.storeBytes (s.dataAddr 0) (decimalDigits (s.V x)) }.advance :=
  if_pos (Nat.succ_le_succ h)

/-- `loadProgram` of an image that fits (70_reset_and_hazards.md R233). -/
theorem perform_loadProgram_fits {image : List Byte} (h : image.length ≤ 3584) :
    perform (.loadProgram image) s = .next ({ s with mem := s.mem.storeBytes 512 image }.returning .loaded) :=
  congrArg Host.Outcome.next (if_neg (Nat.not_lt.mpr h))

/-- The bytes FX55 stores, by the registers they come from. -/
theorem firstRegs_eq_map_V (s : State) (x : Reg) : s.firstRegs x = ((List.finRange 16).take (x.val + 1)).map s.V := by
  refine List.ext_getElem (by simp) fun j hj _ => ?_
  rw [State.getElem_firstRegs]
  simp

/-- Settles O50: each of the three writers stores its bytes with `storeBytes`, and a fetch reads over that. -/
theorem fetchSeesTheStore : Obligations.FetchSeesTheStore := by
  intro s t u x image hu
  refine ⟨fun hr h => ?_, fun hr h => ?_, fun hl h => ?_⟩
  · cases (exec_opFX55_inRange hr).symm.trans h
    exact fetchReads_of_storeBytes (by rw [← firstRegs_eq_map_V]; exact hu)
  · cases (exec_opFX33_inRange hr).symm.trans h
    exact fetchReads_of_storeBytes hu
  · cases (perform_loadProgram_fits hl).symm.trans h
    exact fetchReads_of_storeBytes hu

/-! ### The canonical form is unique -/

variable {m m' : Memory} {c d : Host.Cell}

@[simp] theorem read_head (c : Host.Cell) (m : Memory) : Memory.read (c :: m) c.1 = c.2 := by
  rw [Memory.read_cons, if_pos rfl]

/-- Below its first cell a canonical memory reads as at create. -/
theorem read_below_head {a : Nat} (h : Memory.wf (c :: m) = true) (ha : a < c.1) :
    Memory.read (c :: m) a = Memory.atCreate a := by
  obtain ⟨-, -, hlt, -⟩ := Memory.wf_cons.mp h
  refine Memory.read_of_not_listed fun e he => ?_
  rcases List.mem_cons.mp he with rfl | he
  · omega
  · have := hlt e he
    omega

/-- What the cells after the first read as. -/
theorem read_tail {a : Nat} (h : Memory.wf (c :: m) = true) :
    m.read a = if c.1 = a then Memory.atCreate a else Memory.read (c :: m) a := by
  obtain ⟨-, -, hlt, -⟩ := Memory.wf_cons.mp h
  split
  next hca => exact Memory.read_of_not_listed fun e he => (hca ▸ hlt e he).ne'
  next hca => rw [Memory.read_cons, if_neg hca]

/-- A canonical memory that lists a cell does not read as one just created. -/
theorem read_head_ne_atCreate (h : Memory.wf (c :: m) = true) : Memory.read (c :: m) c.1 ≠ Memory.atCreate c.1 := by
  obtain ⟨-, hne, -, -⟩ := Memory.wf_cons.mp h
  rwa [read_head]

/-- The first cell of a canonical memory is at the least address that does not read as at create. -/
theorem head_le_of_read_alike (h : Memory.wf (c :: m) = true) (h' : Memory.wf (d :: m') = true)
    (hread : ∀ a, Memory.read (c :: m) a = Memory.read (d :: m') a) : d.1 ≤ c.1 :=
  Nat.le_of_not_lt fun hlt => read_head_ne_atCreate h ((hread c.1).trans (read_below_head h' hlt))

theorem head_eq_of_read_alike (h : Memory.wf (c :: m) = true) (h' : Memory.wf (d :: m') = true)
    (hread : ∀ a, Memory.read (c :: m) a = Memory.read (d :: m') a) : c = d := by
  have haddr : c.1 = d.1 := Nat.le_antisymm (head_le_of_read_alike h' h fun a => (hread a).symm)
    (head_le_of_read_alike h h' hread)
  have hbyte : c.2 = d.2 := by
    have := hread c.1
    rwa [read_head, haddr, read_head] at this
  exact Prod.ext haddr hbyte

/-- Settles O51, by induction on the cells: the first cells are equal, and what follows reads alike again. -/
theorem canonicalMemoriesAreEqual : Obligations.CanonicalMemoriesAreEqual := by
  intro m
  induction m with
  | nil =>
    rintro (_ | ⟨d, m'⟩) _ h' hread
    · rfl
    · exact absurd (hread d.1).symm (read_head_ne_atCreate h')
  | cons c m ih =>
    rintro (_ | ⟨d, m'⟩) h h' hread
    · exact absurd (hread c.1) (read_head_ne_atCreate h)
    · obtain rfl := head_eq_of_read_alike h h' hread
      obtain ⟨-, -, -, hm⟩ := Memory.wf_cons.mp h
      obtain ⟨-, -, -, hm'⟩ := Memory.wf_cons.mp h'
      rw [ih m' hm hm' fun a => by rw [read_tail h, read_tail h', hread a]]

end Sys2Proof.Proofs
end

/-! ## The encoding

What the decoder answers, said once each way: it reads back every opcode the encoder writes (`decode_encode`), it
answers an instruction only for that instruction's opcode (`decode_sound`), and it answers none exactly for the classes
of 30_encoding.md R83 (`decode_eq_none_iff`). -/

section

namespace Sys2Proof.Proofs

open Sys2Proof Sys2Proof.Machine Sys2Proof.Safety

variable {op : Word} {i : Instr}

/-! ### Decoding an opcode -/

theorem decode_encode (hi : i.wf = true) : decode (encode i) = some i := by
  cases i with
  | op00E0 | op00EE => rfl
  | opDXYN x y n =>
    have hn : n ≤ 15 := of_decide_eq_true hi
    simp [encode, decode, Nat.mod_eq_of_lt (Nat.lt_succ_of_le hn)]
  | op8XY0 | op8XY1 | op8XY2 | op8XY3 | op8XY4 | op8XY5 | op8XY6 | op8XY7 | op8XYE =>
    simp [encode, decode, decodeFamily8]
  | opEX9E | opEXA1 => simp [encode, decode, decodeFamilyE]
  | opFX07 | opFX0A | opFX15 | opFX18 | opFX1E | opFX29 | opFX33 | opFX55 | opFX65 =>
    simp [encode, decode, decodeFamilyF]
  | _ => simp [encode, decode]

/-- Settles O2: the word by `decode_encode`; the two bytes make that word again. -/
theorem decodeEncodeRoundTrip : Obligations.DecodeEncodeRoundTrip := by
  intro i hi
  have hd := decode_encode hi
  exact ⟨hd, fun rest => by simp [encodeBytes, decodeBytes, hd]⟩

/-! ### The opcode of a decoded instruction -/

theorem formatNNN_eq {h : BitVec 4} (hh : fieldH op = h) : formatNNN h (fieldNNN op) = op :=
  hh ▸ formatNNN_of_fields op

theorem formatXNN_eq {h : BitVec 4} {nn : Byte} (hh : fieldH op = h) (hn : fieldNN op = nn) :
    formatXNN h (fieldX op) nn = op :=
  hh ▸ hn ▸ formatXNN_of_fields op

theorem formatXYN_eq {h low : BitVec 4} (hh : fieldH op = h) (hn : fieldN op = low) :
    formatXYN h (fieldX op) (fieldY op) low = op :=
  hh ▸ hn ▸ formatXYN_of_fields op

theorem decodeFamily0_sound (h : decodeFamily0 op = some i) : i.wf = true ∧ encode i = op := by
  unfold decodeFamily0 at h
  split at h <;> cases h <;> exact ⟨rfl, rfl⟩

theorem decodeFamily8_sound (hh : fieldH op = 0x8#4) (h : decodeFamily8 op = some i) :
    i.wf = true ∧ encode i = op := by
  unfold decodeFamily8 at h
  split at h <;> cases h <;> exact ⟨rfl, formatXYN_eq hh ‹_›⟩

theorem decodeFamilyE_sound (hh : fieldH op = 0xE#4) (h : decodeFamilyE op = some i) :
    i.wf = true ∧ encode i = op := by
  unfold decodeFamilyE at h
  split at h <;> cases h <;> exact ⟨rfl, formatXNN_eq hh ‹_›⟩

theorem decodeFamilyF_sound (hh : fieldH op = 0xF#4) (h : decodeFamilyF op = some i) :
    i.wf = true ∧ encode i = op := by
  unfold decodeFamilyF at h
  split at h <;> cases h <;> exact ⟨rfl, formatXNN_eq hh ‹_›⟩

/-- The decoder answers only well-formed instructions, each for its own opcode. -/
theorem decode_sound (h : decode op = some i) : i.wf = true ∧ encode i = op := by
  unfold decode at h
  split at h
  case h_1 => exact decodeFamily0_sound h
  case h_9 => exact decodeFamily8_sound ‹_› h
  case h_15 => exact decodeFamilyE_sound ‹_› h
  case h_16 =>
    have hF : fieldH op = 0xF#4 := by simp only [imp_false] at *; bv_omega
    exact decodeFamilyF_sound hF h
  case h_6 | h_10 =>
    split at h <;> cases h
    exact ⟨rfl, formatXYN_eq ‹_› ‹_›⟩
  case h_14 =>
    cases h
    have hn := (fieldN op).isLt
    exact ⟨decide_eq_true (by omega), by simpa [encode] using formatXYN_eq ‹_› rfl⟩
  case h_2 | h_3 | h_11 | h_12 => cases h; exact ⟨rfl, formatNNN_eq ‹_›⟩
  all_goals cases h; exact ⟨rfl, formatXNN_eq ‹_› rfl⟩

/-- Settles O3: `decode_sound`, by the families of the decoder. -/
theorem decodedWordIsItsEncoding : Obligations.DecodedWordIsItsEncoding := fun _ _ => decode_sound

/-! ### The words that decode to nothing -/

/-- The six classes of 30_encoding.md R83, by the fields of the word. -/
def Undecoded (op : Word) : Prop :=
  (fieldH op = 0x0#4 ∧ op ≠ 0x00E0#16 ∧ op ≠ 0x00EE#16) ∨
  (fieldH op = 0x5#4 ∧ fieldN op ≠ 0x0#4) ∨
  (fieldH op = 0x8#4 ∧ fieldN op ∈ [0x8#4, 0x9#4, 0xA#4, 0xB#4, 0xC#4, 0xD#4, 0xF#4]) ∨
  (fieldH op = 0x9#4 ∧ fieldN op ≠ 0x0#4) ∨
  (fieldH op = 0xE#4 ∧ fieldNN op ∉ [0x9E#8, 0xA1#8]) ∨
  (fieldH op = 0xF#4 ∧ fieldNN op ∉ [0x07#8, 0x0A#8, 0x15#8, 0x18#8, 0x1E#8, 0x29#8, 0x33#8, 0x55#8, 0x65#8])

theorem decodeFamily0_eq_none : decodeFamily0 op = none ↔ op ≠ 0x00E0#16 ∧ op ≠ 0x00EE#16 := by
  unfold decodeFamily0
  split <;> simp_all

theorem decodeFamily8_eq_none :
    decodeFamily8 op = none ↔ fieldN op ∈ [0x8#4, 0x9#4, 0xA#4, 0xB#4, 0xC#4, 0xD#4, 0xF#4] := by
  unfold decodeFamily8
  generalize fieldN op = n
  split
  case h_10 => simp only [imp_false, true_iff] at *; decide +revert
  all_goals simp

theorem decodeFamilyE_eq_none : decodeFamilyE op = none ↔ fieldNN op ∉ [0x9E#8, 0xA1#8] := by
  unfold decodeFamilyE
  split <;> simp_all

theorem decodeFamilyF_eq_none : decodeFamilyF op = none ↔
    fieldNN op ∉ [0x07#8, 0x0A#8, 0x15#8, 0x18#8, 0x1E#8, 0x29#8, 0x33#8, 0x55#8, 0x65#8] := by
  unfold decodeFamilyF
  split <;> simp_all

theorem decode_eq_none_iff : decode op = none ↔ Undecoded op := by
  unfold Undecoded
  rw [← decodeFamily0_eq_none, ← decodeFamily8_eq_none, ← decodeFamilyE_eq_none, ← decodeFamilyF_eq_none]
  unfold decode
  split
  case h_16 =>
    have hF : fieldH op = 0xF#4 := by simp only [imp_false] at *; bv_omega
    simp [hF]
  all_goals simp [*]

/-- Settles O5: the classes of `Undecoded`, with the fields written as numbers. -/
theorem undecodedWords : Obligations.UndecodedWords := by
  intro op
  have hfamily0 : op.toNat / 4096 = 0 ↔ op.toNat < 0x1000 := by omega
  rw [decode_eq_none_iff]
  simp [Undecoded, ← BitVec.toNat_inj, fieldH_toNat, fieldN_toNat, fieldNN_toNat, hfamily0]

/-! ### The rows of the opcode table -/

/-- The word agrees with the row's match on the row's mask (30_encoding.md R75). -/
def MatchesRow (op : Word) (row : OpcodeRow) : Prop := op &&& row.mask = row.pattern

/-- Every opcode matches the row of its instruction, by the layout of the row. -/
theorem encode_matchesRow (i : Instr) : MatchesRow (encode i) i.row := by
  open Laws.EncodeRow in
  cases i with
  | op00E0 | op00EE => rfl
  | op1NNN | op2NNN | opANNN | opBNNN => exact formatNNN_masked _ _
  | op3XNN | op4XNN | op6XNN | op7XNN | opCXNN => exact formatXNN_masked _ _ _
  | op5XY0 | op8XY0 | op8XY1 | op8XY2 | op8XY3 | op8XY4 | op8XY5 | op8XY6 | op8XY7 | op8XYE | op9XY0 =>
    exact formatXY_masked _ _ _ _
  | opDXYN => exact formatXYN_masked _ _ _ _
  | _ => exact formatX_masked _ _ _

/-- The table has a row for every constructor, whatever the operands. -/
theorem row_mem_opcodeTable (i : Instr) : i.row ∈ opcodeTable := by
  cases i <;> exact of_decide_eq_true rfl

theorem MatchesRow.patterns_agree {row row' : OpcodeRow} (h : MatchesRow op row) (h' : MatchesRow op row') :
    (row.pattern ^^^ row'.pattern) &&& (row.mask &&& row'.mask) = 0 := by
  rw [← h, ← h']
  ext k
  cases hm : row.mask[k] <;> cases hm' : row'.mask[k] <;> simp [hm, hm']

/-- No word matches two rows, since no two rows' patterns agree on their common mask. -/
theorem MatchesRow.unique {row row' : OpcodeRow} (hr : row ∈ opcodeTable) (hr' : row' ∈ opcodeTable)
    (h : MatchesRow op row) (h' : MatchesRow op row') : row = row' := by
  have hsymm : Std.Symm fun a b : OpcodeRow => (a.pattern ^^^ b.pattern) &&& (a.mask &&& b.mask) ≠ 0 :=
    ⟨fun a b hab => by rwa [BitVec.xor_comm, BitVec.and_comm b.mask]⟩
  by_contra hne
  exact opcodeTable_no_overlap.forall hr hr' hne (h.patterns_agree h')

/-! ### The mask of a family holds every bit the decoder tests -/

/-- The bits that tell the instructions of a family apart (30_encoding.md R77 to R80). -/
def familyMask (h : BitVec 4) : Word :=
  match h with
  | 0x0#4 => 0xFFFF#16
  | 0x5#4 | 0x8#4 | 0x9#4 => 0xF00F#16
  | 0xE#4 | 0xF#4 => 0xF0FF#16
  | _ => 0xF000#16

/-- Every row's mask is that of its family, and its pattern is itself an opcode. -/
theorem opcodeTable_rows :
    ∀ row ∈ opcodeTable, row.mask = familyMask (fieldH row.pattern) ∧ decode row.pattern ≠ none := by decide

theorem fieldH_masked (op : Word) (h : BitVec 4) : fieldH (op &&& familyMask h) = fieldH op := by
  have hall : (familyMask h).extractLsb' 12 4 = BitVec.allOnes 4 := by decide +revert
  rw [fieldH, BitVec.extractLsb'_and, hall, BitVec.and_allOnes, fieldH]

theorem fieldN_masked (op : Word) : fieldN (op &&& 0xF00F#16) = fieldN op :=
  BitVec.extractLsb'_and.trans BitVec.and_allOnes

theorem fieldNN_masked (op : Word) : fieldNN (op &&& 0xF0FF#16) = fieldNN op :=
  BitVec.extractLsb'_and.trans BitVec.and_allOnes

/-- The bits outside its family's mask do not make a word decode. -/
theorem Undecoded.masked (h : Undecoded op) : Undecoded (op &&& familyMask (fieldH op)) := by
  have hword : op &&& 0xFFFF#16 = op := BitVec.and_allOnes
  unfold Undecoded at h ⊢
  rw [fieldH_masked]
  rcases h with ⟨h, h'⟩ | ⟨h, h'⟩ | ⟨h, h'⟩ | ⟨h, h'⟩ | ⟨h, h'⟩ | ⟨h, h'⟩ <;>
    simp [h, h', familyMask, hword, fieldN_masked, fieldNN_masked]

/-- A word that matches a row decodes, since the row's pattern does. -/
theorem MatchesRow.decodes {row : OpcodeRow} (hr : row ∈ opcodeTable) (h : MatchesRow op row) : decode op ≠ none := by
  obtain ⟨hmask, hpattern⟩ := opcodeTable_rows row hr
  have hH : fieldH row.pattern = fieldH op := by rw [← h, hmask, fieldH_masked]
  intro hd
  have hu := (decode_eq_none_iff.mp hd).masked
  rw [← hH, ← hmask, h] at hu
  exact hpattern (decode_eq_none_iff.mpr hu)

theorem decodes_iff_matchesRow {row : OpcodeRow} (hr : row ∈ opcodeTable) :
    (∃ i, decode op = some i ∧ i.row = row) ↔ MatchesRow op row := by
  constructor
  · rintro ⟨i, hd, rfl⟩
    exact (decode_sound hd).2 ▸ encode_matchesRow i
  · intro h
    obtain ⟨i, hd⟩ := Option.ne_none_iff_exists'.mp (h.decodes hr)
    have hi : MatchesRow op i.row := (decode_sound hd).2 ▸ encode_matchesRow i
    exact ⟨i, hd, MatchesRow.unique (row_mem_opcodeTable i) hr hi h⟩

/-- Settles O4: `decodes_iff_matchesRow` for each row, and that the rows do not overlap. -/
theorem decodeMatchesTheTable : Obligations.DecodeMatchesTheTable := by
  intro op
  refine ⟨fun row hr => decodes_iff_matchesRow hr, ⟨fun hd row hr h => MatchesRow.decodes hr h hd, fun hnone => ?_⟩,
    fun row hr row' hr' => MatchesRow.unique hr hr'⟩
  by_contra hd
  obtain ⟨i, hi⟩ := Option.ne_none_iff_exists'.mp hd
  exact hnone i.row (row_mem_opcodeTable i) ((decodes_iff_matchesRow (row_mem_opcodeTable i)).mp ⟨i, hi, rfl⟩)

/-- Settles O1: the listed words, decoded. -/
theorem sampleWordsDecode : Obligations.SampleWordsDecode := by
  unfold Obligations.SampleWordsDecode
  decide

end Sys2Proof.Proofs
end

/-! ## The step: fetch, decode, execute

What the host's `step()` comes to at an instruction and at a PC past the last fetch address, and the tick after it. -/

section

namespace Sys2Proof.Proofs

open Sys2Proof Sys2Proof.Machine Sys2Proof.Safety

variable {s t : State} {i : Instr}

/-- Settles O6: neither meaning reads `y` (30_encoding.md R82). -/
theorem shiftsIgnoreY : Obligations.ShiftsIgnoreY := fun _ _ _ _ => ⟨rfl, rfl⟩

theorem perform_step_of_not_owed (ho : s.tickOwed = false) : perform .step s = blockStep s.stepBegun := by
  simp [perform, ho]

/-- `step()` at an instruction (30_encoding.md R74). -/
theorem perform_step_of_decode (ho : s.tickOwed = false) (hpc : s.pc.toNat ≤ 4094) (hd : decode s.fetch = some i) :
    perform .step s = exec i (s.stepBegun.returning .ok) := by
  have hfetch : decode s.stepBegun.fetch = some i := hd
  rw [perform_step_of_not_owed ho, blockStep, State.stepBegun_pc, if_neg (Nat.not_lt.mpr hpc), hfetch]

/-- `step()` at a PC where no fetch can be made (30_encoding.md R81). -/
theorem perform_step_of_pc_high (ho : s.tickOwed = false) (hpc : s.pc.toNat > 4094) :
    perform .step s = .next (s.stepBegun.reporting (.fetchRange s.pc)) := by
  rw [perform_step_of_not_owed ho]
  exact if_pos hpc

/-- Settles O7: the two forms of the schedule, and `perform_step_of_decode` at each. -/
theorem stepRunsTheDecodedInstruction : Obligations.StepRunsTheDecodedInstruction := by
  intro s i ho hpc hd
  refine ⟨fun hs => ?_, fun rest => ?_⟩
  · rw [step_of_idle hs, State.idleOp, ho]
    exact perform_step_of_decode ho hpc hd
  · rw [step_of_scheduled rfl]
    exact perform_step_of_decode (s := { s with schedule := rest }) ho hpc hd

/-- A tick follows wherever one is owed under PER_STEP (60_exceptions.md R212, R213). -/
theorem tickFollows_of_owed (h : t.cadence = .perStep → t.tickOwed = true) : TickFollows t := by
  intro hc
  have ho := h hc
  have htick : perform .tick t = .next (t.tick.tickPaid.returning .nothing) := by simp [perform, ho]
  refine ⟨ho, _, htick, fun hs => ?_, countDown_toNat _, countDown_toNat _, by simp [SameBlock], rfl, rfl⟩
  rw [step_of_idle hs, State.idleOp, if_pos ho, htick]

/-- Settles O9: the step only reports and owes its tick, and the tick follows. -/
theorem fetchRangeFaultIsVoid : Obligations.FetchRangeFaultIsVoid := by
  intro s hop ho hpc
  have hstep : step s =
      .next (State.reporting { s with schedule := s.schedule.tail }.stepBegun (.fetchRange s.pc)) := by
    rw [step, nextOp_state, hop]
    exact perform_step_of_pc_high ho hpc
  exact ⟨_, hstep, by simp [SameBlock], rfl, rfl, rfl, rfl, rfl, rfl, tickFollows_of_owed (congrArg owesTick)⟩

end Sys2Proof.Proofs
end

/-! ## The display

What 00E0 and DXYN leave, in terms of `SpriteCovers`, and what a second equal draw undoes. -/

section

namespace Sys2Proof.Proofs

open Sys2Proof Sys2Proof.Machine Sys2Proof.Safety

variable {s : State} {x y : Reg} {n : Nat}

/-- Settles O29: the decoder's one word for 00E0 is its encoding, and the meaning writes the cleared screen, DIRTY and
PC. -/
theorem clearScreen : Obligations.ClearScreen := by
  refine ⟨fun op => ⟨fun hd => (decode_sound hd).2.symm, fun hop => hop ▸ rfl⟩, fun s => ?_⟩
  refine ⟨_, rfl, Framebuffer.pixel_clear, rfl, rfl, fun _ => rfl, fun _ => rfl, rfl, ?_⟩
  exact ⟨⟨rfl, rfl⟩, ⟨rfl, rfl⟩, fun _ => rfl, ⟨rfl, rfl, rfl, rfl, rfl⟩, rfl⟩

/-! ### The two ways a DXYN ends -/

/-- The state a DXYN in range leaves (40_display.md R101). -/
def withSprite (s : State) (x y : Reg) (n : Nat) : State :=
  ({ s with fb := (s.spriteDrawn x y n).fb, dirty := true }.setV VF (flagOf (s.spriteDrawn x y n).collided)).advance

theorem exec_opDXYN_inRange (h : n = 0 ∨ s.i.toNat + n - 1 ≤ 4095) :
    exec (.opDXYN x y n) s = .next (withSprite s x y n) :=
  if_neg (by rw [State.dataInRange_iff]; omega)

theorem exec_opDXYN_outOfRange (h : n > 0 ∧ s.i.toNat + n - 1 > 4095) :
    exec (.opDXYN x y n) s =
      .next (s.reporting (.memoryRange s.pc (encode (.opDXYN x y n)) (s.i.toNat + n - 1))) := by
  have haddr : s.dataAddr (n - 1) = s.i.toNat + n - 1 := by rw [State.dataAddr_eq]; omega
  rw [← haddr]
  exact if_pos (by rw [State.dataInRange_iff]; omega)

/-! ### The pixels and the collision of a drawn sprite -/

/-- The bits that land are those of the n bytes loaded from I. -/
theorem spriteCovers_iff_lands {px : Fin 64} {py : Fin 32} :
    SpriteCovers s x y n px py ↔ Lands (s.V x) (s.V y) 0 (s.mem.loadBytes (s.dataAddr 0) n) px py := by
  simp [SpriteCovers, Lands, Fin.ext_iff, wrapX, wrapY, State.dataAddr_eq]

theorem wf_opDXYN_iff : (Instr.opDXYN x y n).wf = true ↔ n ≤ 15 := decide_eq_true_iff

/-- Drawing a sprite XORs each pixel with whether a set bit lands on it, and collides where one lands on a lit pixel
(40_display.md R101, R103): its rows are at most 15, so no pixel is toggled twice. -/
theorem spriteDrawn_spec (hn : n ≤ 15) :
    (∀ px py, (s.spriteDrawn x y n).fb.pixel px py = true ↔
      Xor (s.fb.pixel px py = true) (SpriteCovers s x y n px py)) ∧
    ((s.spriteDrawn x y n).collided = true ↔ ∃ px py, SpriteCovers s x y n px py ∧ s.fb.pixel px py = true) := by
  classical
  have hspec := Drawing.drawRows_spec ⟨s.fb, false⟩ (s.V x) (s.V y) 0 (s.mem.loadBytes (s.dataAddr 0) n)
    (by rw [Memory.length_loadBytes]; omega)
  rw [← State.spriteDrawn] at hspec
  obtain ⟨hpixel, hcollided⟩ := hspec
  simp only [spriteCovers_iff_lands]
  refine ⟨fun px py => ?_, by simpa using hcollided⟩
  rw [hpixel, Bool.xor_iff_ne, xor_iff_not_iff, ne_eq, Bool.eq_iff_iff, decide_eq_true_iff]

theorem pixel_withSprite (hn : n ≤ 15) (px : Fin 64) (py : Fin 32) :
    (withSprite s x y n).fb.pixel px py = true ↔ Xor (s.fb.pixel px py = true) (SpriteCovers s x y n px py) :=
  (spriteDrawn_spec hn).1 px py

theorem VF_withSprite : (withSprite s x y n).V VF = flagOf (s.spriteDrawn x y n).collided :=
  State.V_setV_same _ _

theorem flagOf_eq_one_iff {c : Bool} : flagOf c = 1 ↔ c = true := by cases c <;> decide

/-- VF after a DXYN in range is 1 exactly on a collision (40_display.md R101). -/
theorem VF_withSprite_eq_one_iff (hn : n ≤ 15) :
    (withSprite s x y n).V VF = 1 ↔ ∃ px py, SpriteCovers s x y n px py ∧ s.fb.pixel px py = true := by
  rw [VF_withSprite, flagOf_eq_one_iff, (spriteDrawn_spec hn).2]

/-- Settles O30: `withSprite` in range, with its pixels and its collision, and the void step past memory. -/
theorem drawSpriteClosedForm : Obligations.DrawSpriteClosedForm := by
  intro s x y n hwf
  have hn := wf_opDXYN_iff.mp hwf
  refine ⟨fun h => ⟨_, exec_opDXYN_inRange h, pixel_withSprite hn, (VF_withSprite_eq_one_iff hn).mpr, fun hno => ?_,
    fun r hr => State.V_setV_other hr _, ?_⟩, exec_opDXYN_outOfRange⟩
  · rw [VF_withSprite, Bool.eq_false_iff.mpr (mt (spriteDrawn_spec hn).2.mp hno), flagOf_false]
  · exact ⟨rfl, rfl, rfl, fun _ => rfl, ⟨rfl, rfl⟩, ⟨rfl, rfl⟩, fun _ => rfl, ⟨rfl, rfl, rfl, rfl, rfl⟩, rfl⟩

/-! ### Two equal draws -/

/-- A draw that leaves V[x] and V[y] alone leaves the place and the bits of the sprite alone. -/
theorem spriteCovers_withSprite (hx : (withSprite s x y n).V x = s.V x) (hy : (withSprite s x y n).V y = s.V y)
    (px : Fin 64) (py : Fin 32) : SpriteCovers (withSprite s x y n) x y n px py ↔ SpriteCovers s x y n px py := by
  unfold SpriteCovers
  rw [hx, hy]
  rfl

/-- Settles O31: XOR with the same bits twice is no change, and the second draw meets a lit pixel where the first lit
it. -/
theorem drawTwiceRestores : Obligations.DrawTwiceRestores := by
  intro s t x y n hwf hr ht hx hy
  have hn := wf_opDXYN_iff.mp hwf
  cases (exec_opDXYN_inRange hr).symm.trans ht
  have hcovers := spriteCovers_withSprite hx hy
  refine ⟨_, exec_opDXYN_inRange (s := withSprite s x y n) hr, fun px py => ?_, ?_⟩
  · rw [Bool.eq_iff_iff, pixel_withSprite hn, hcovers, pixel_withSprite hn]
    by_cases hc : SpriteCovers s x y n px py <;> simp [Xor, hc]
  · rw [VF_withSprite_eq_one_iff hn]
    refine exists_congr fun px => exists_congr fun py => ?_
    rw [hcovers]
    refine and_congr_right fun hc => ?_
    simp [pixel_withSprite hn, Xor, hc]

/-- A sprite of one set bit at I, and the one pixel it lands on is lit. -/
def litUnderSprite : State :=
  { State.reset with i := 0x300, mem := [(0x300, 0x80)], fb := Framebuffer.clear.setPixel 0 0 true }

/-- Refutes O32: from `litUnderSprite` the first draw clears the one lit pixel, and the second collides with nothing. -/
theorem not_secondDrawAlwaysCollides : ¬ Obligations.SecondDrawAlwaysCollides := by
  intro h
  have hcovers : SpriteCovers litUnderSprite 0 1 1 0 0 :=
    ⟨0, by decide, 0, by decide, by decide, by decide, by decide⟩
  have hVF := h litUnderSprite (withSprite litUnderSprite 0 1 1) (withSprite (withSprite litUnderSprite 0 1 1) 0 1 1)
    0 1 1 rfl (by decide) rfl rfl rfl ⟨0, 0, hcovers⟩ rfl
  exact absurd hVF (by decide)

end Sys2Proof.Proofs
end

/-! ## Control transfer

The words of a layout by mask and fields, and what the jumps, the skips, a call and a return do to PC and the stack. -/

section

namespace Sys2Proof.Proofs

open Sys2Proof Sys2Proof.Machine Sys2Proof.Safety

variable {s t : State} {op : Word} {i : Instr} {nnn : Addr12} {x y : Reg} {nn : Byte}

/-! ### A word of a layout -/

theorem decode_eq_some_iff (hi : i.wf = true) : decode op = some i ↔ encode i = op :=
  ⟨fun hd => (decode_sound hd).2, fun he => he ▸ decode_encode hi⟩

/-- A word of format XNN is known by its family nibble and its fields (30_encoding.md R73). -/
theorem formatXNN_eq_iff {h : BitVec 4} :
    formatXNN h x nn = op ↔
      op &&& 0xF000#16 = (h ++ 0x0#4) ++ 0x00#8 ∧ fieldX op = x ∧ fieldNN op = nn := by
  constructor
  · rintro rfl
    exact ⟨Laws.EncodeRow.formatXNN_masked h x nn, fieldX_formatXNN h x nn, fieldNN_formatXNN h x nn⟩
  · rintro ⟨hm, rfl, rfl⟩
    have hh : fieldH op = h := by
      rw [← fieldH_masked op 0x3#4]
      exact (congrArg fieldH hm).trans (fieldH_formatXNN h 0 0)
    exact formatXNN_eq hh rfl

/-- A word of format XY is known by its family nibble, its low nibble and its fields (30_encoding.md R73). -/
theorem formatXYN_eq_iff {h low : BitVec 4} :
    formatXYN h x y low = op ↔
      op &&& 0xF00F#16 = (h ++ 0x0#4) ++ (0x0#4 ++ low) ∧ fieldX op = x ∧ fieldY op = y := by
  constructor
  · rintro rfl
    exact ⟨Laws.EncodeRow.formatXY_masked h low x y, fieldX_formatXYN h low x y, fieldY_formatXYN h low x y⟩
  · rintro ⟨hm, rfl, rfl⟩
    have hh : fieldH op = h := by
      rw [← fieldH_masked op 0x5#4]
      exact (congrArg fieldH hm).trans (fieldH_formatXYN h low 0 0)
    have hlow : fieldN op = low := by
      rw [← fieldN_masked]
      exact (congrArg fieldN hm).trans (fieldN_formatXYN h low 0 0)
    exact formatXYN_eq hh hlow

/-! ### Jumps and skips -/

theorem onlyPC_jumpTo (s : State) (a : Word) : OnlyPC s (s.jumpTo a) :=
  ⟨fun _ => rfl, fun _ => rfl, rfl, ⟨rfl, rfl⟩, ⟨rfl, rfl⟩, ⟨fun _ _ => rfl, rfl⟩, fun _ => rfl,
    ⟨rfl, rfl, rfl, rfl, rfl⟩, rfl⟩

theorem onlyPC_skipIf (s : State) (c : Bool) : OnlyPC s (s.skipIf c) := onlyPC_jumpTo s _

/-- Settles O36: the sum of BNNN is at most 0xFFF + 0xFF, so the 16-bit addition does not wrap. -/
theorem jumpTargets : Obligations.JumpTargets := by
  intro s nnn
  refine ⟨⟨_, rfl, toNat_zextAddr nnn, onlyPC_jumpTo s _⟩, ⟨_, rfl, ?_, onlyPC_jumpTo s _⟩⟩
  have hnnn := nnn.isLt
  have hv := (s.V 0).isLt
  rw [State.jumpTo_pc, BitVec.toNat_add, toNat_zextAddr, toNat_zextByte, Nat.mod_eq_of_lt (by omega)]

/-- A skip on equality goes 4 ahead where the two bytes are equal (41_control_flow.md R113, R115). -/
theorem pc_skipIf_beq (a b : Byte) : (s.skipIf (a == b)).pc = if a = b then s.pc + 4 else s.pc + 2 := by
  simp

/-- A skip on inequality goes 2 ahead where the two bytes are equal (41_control_flow.md R114, R116). -/
theorem pc_skipIf_bne (a b : Byte) : (s.skipIf (a != b)).pc = if a = b then s.pc + 2 else s.pc + 4 := by
  by_cases hab : a = b <;> simp [hab]

/-- Families 5 and 9 hold no word whose low nibble is not 0 (30_encoding.md R83). -/
theorem decode_eq_none_of_low_nibble (hfamily : op.toNat / 4096 = 5 ∨ op.toNat / 4096 = 9)
    (hlow : op.toNat % 16 ≠ 0) : decode op = none := by
  rw [undecodedWords]
  rcases hfamily with h5 | h9
  · exact .inr (.inl ⟨h5, hlow⟩)
  · exact .inr (.inr (.inr (.inl ⟨h9, hlow⟩)))

/-- Settles O37: each encoding by its layout, and each skip by the two values of its condition. -/
theorem skipsCompareRegisters : Obligations.SkipsCompareRegisters := by
  constructor
  · intro op x y nn
    exact ⟨(decode_eq_some_iff rfl).trans formatXNN_eq_iff, (decode_eq_some_iff rfl).trans formatXNN_eq_iff,
      (decode_eq_some_iff rfl).trans formatXYN_eq_iff, (decode_eq_some_iff rfl).trans formatXYN_eq_iff,
      decode_eq_none_of_low_nibble⟩
  · intro s x y nn
    exact ⟨⟨_, rfl, pc_skipIf_beq _ _, onlyPC_skipIf s _⟩, ⟨_, rfl, pc_skipIf_bne _ _, onlyPC_skipIf s _⟩,
      ⟨_, rfl, pc_skipIf_beq _ _, onlyPC_skipIf s _⟩, ⟨_, rfl, pc_skipIf_bne _ _, onlyPC_skipIf s _⟩⟩

/-! ### Calls and returns -/

theorem exec_op00EE_of_pop {a : Word} (h : s.pop = some (a, t)) : exec .op00EE s = .next (t.jumpTo (a + 2)) := by
  simp only [exec, exec00EE, h]

theorem exec_op00EE_of_pop_none (h : s.pop = none) :
    exec .op00EE s = .next (s.reporting (.stackUnderflow s.pc (encode .op00EE))) := by
  simp only [exec, exec00EE, h, raise_eq]

theorem exec_op2NNN_of_push (h : s.push s.pc = some t) :
    exec (.op2NNN nnn) s = .next (t.jumpTo (zextAddr nnn)) := by
  simp only [exec, exec2NNN, h]

theorem exec_op2NNN_of_push_none (h : s.push s.pc = none) :
    exec (.op2NNN nnn) s = .next (s.reporting (.stackOverflow s.pc (encode (.op2NNN nnn)))) := by
  simp only [exec, exec2NNN, h, raise_eq]

/-- What a call and a return leave alone: everything but the stack, SP and PC. -/
theorem frame_of_stack_and_pc (s : State) (stack : Vector Word 16) (sp : Fin 17) (a : Word) :
    let t := { s with stack := stack, sp := sp }.jumpTo a
    SameRegs s t ∧ SameMemory s t ∧ t.i = s.i ∧ SameTimers s t ∧ SameDisplay s t ∧ SameKeys s t ∧
      SameEnvironment s t ∧ t.draws = s.draws :=
  ⟨fun _ => rfl, fun _ => rfl, rfl, ⟨rfl, rfl⟩, ⟨fun _ _ => rfl, rfl⟩, fun _ => rfl, ⟨rfl, rfl, rfl, rfl, rfl⟩, rfl⟩

/-- Settles O33: the two cases of the pop. -/
theorem returnPopsTheStack : Obligations.ReturnPopsTheStack := by
  intro s
  rcases State.pop_cases (s := s) with ⟨hsp, hp⟩ | ⟨hsp, hp⟩
  · exact ⟨fun hpos => absurd hsp hpos.ne', fun _ => exec_op00EE_of_pop_none hp⟩
  · exact ⟨fun _ => ⟨_, exec_op00EE_of_pop hp, rfl, rfl, rfl, frame_of_stack_and_pc s s.stack _ _⟩,
      fun h0 => absurd h0 hsp⟩

/-- Settles O34: the two cases of the push. -/
theorem callPushesItsAddress : Obligations.CallPushesItsAddress := by
  intro s nnn
  rcases State.push_cases (s := s) s.pc with ⟨hsp, hp⟩ | ⟨hsp, hp⟩
  · exact ⟨fun hlt => absurd hsp hlt.ne, fun _ => exec_op2NNN_of_push_none hp⟩
  · refine ⟨fun _ => ⟨_, exec_op2NNN_of_push hp, rfl, toNat_zextAddr nnn, fun j => ?_,
      frame_of_stack_and_pc s _ _ _⟩, fun h16 => absurd h16 hsp.ne⟩
    rw [State.jumpTo_stack, Vector.getElem_set]
    simp only [eq_comm]

/-- A jump does not touch the stack. -/
theorem pop_jumpTo {a b : Word} (h : s.pop = some (a, t)) : (s.jumpTo b).pop = some (a, t.jumpTo b) := by
  rcases State.pop_cases (s := s) with ⟨-, hp⟩ | ⟨hsp, hp⟩
  · cases hp.symm.trans h
  · cases hp.symm.trans h
    exact dif_neg hsp

/-- Settles O35: the call's jump leaves the stack alone, so the return pops what the call pushed (`State.pop_push`). -/
theorem callThenReturnResumes : Obligations.CallThenReturnResumes := by
  intro s t nnn hlt ht
  rcases State.push_cases (s := s) s.pc with ⟨hsp, -⟩ | ⟨hsp, hp⟩
  · exact absurd hsp hlt.ne
  · cases (exec_op2NNN_of_push hp).symm.trans ht
    have hpop := pop_jumpTo (b := zextAddr nnn) (State.pop_push hp)
    refine ⟨Vector.getElem_set_self _, _, exec_op00EE_of_pop hpop, rfl, rfl, ?_⟩
    exact ⟨rfl, rfl, rfl, rfl, rfl, rfl, rfl, rfl, rfl, rfl, rfl⟩

end Sys2Proof.Proofs
end

/-! ## Registers and arithmetic

What one register write and what "the flag, then the result" leave, each said once; the instructions of
42_registers_alu.md are these two with a value. -/

section

namespace Sys2Proof.Proofs

open Sys2Proof Sys2Proof.Machine Sys2Proof.Safety

variable {s : State} {x y : Reg} {f : Byte} {c : Bool} {g : Byte → Byte → Byte}

/-! ### One register and PC -/

/-- Writing registers and advancing PC leaves everything else alone (10_state.md R23). -/
theorem onlyRegsAndPC_setRegs (s : State) (v : Vector Byte 16) : OnlyRegsAndPC s { s with v := v }.advance :=
  ⟨fun _ => rfl, rfl, ⟨rfl, rfl⟩, ⟨rfl, rfl⟩, ⟨fun _ _ => rfl, rfl⟩, fun _ => rfl, ⟨rfl, rfl, rfl, rfl, rfl⟩, rfl⟩

theorem frame_setReg (s : State) (x : Reg) (b : Byte) :
    let t := (s.setV x b).advance
    (∀ r, r ≠ x → t.V r = s.V r) ∧ t.pc = s.pc + 2 ∧ OnlyRegsAndPC s t :=
  ⟨fun _ hr => State.V_setV_other hr b, rfl, onlyRegsAndPC_setRegs s _⟩

/-- Settles O38: each encoding by its layout; each result is the value of one register write. -/
theorem loadsAndBitwise : Obligations.LoadsAndBitwise := by
  constructor
  · intro op x y nn
    exact ⟨(decode_eq_some_iff rfl).trans formatXNN_eq_iff, (decode_eq_some_iff rfl).trans formatXNN_eq_iff,
      (decode_eq_some_iff rfl).trans formatXYN_eq_iff, (decode_eq_some_iff rfl).trans formatXYN_eq_iff,
      (decode_eq_some_iff rfl).trans formatXYN_eq_iff, (decode_eq_some_iff rfl).trans formatXYN_eq_iff⟩
  · intro s x y nn
    have hsum : ((s.setV x (s.V x + nn)).V x).toNat = ((s.V x).toNat + nn.toNat) % 256 := by
      rw [State.V_setV_same, BitVec.toNat_add]
    exact ⟨⟨_, rfl, State.V_setV_same x _, frame_setReg s x _⟩, ⟨_, rfl, hsum, frame_setReg s x _⟩,
      ⟨_, rfl, State.V_setV_same x _, frame_setReg s x _⟩, ⟨_, rfl, State.V_setV_same x _, frame_setReg s x _⟩,
      ⟨_, rfl, State.V_setV_same x _, frame_setReg s x _⟩, ⟨_, rfl, State.V_setV_same x _, frame_setReg s x _⟩⟩

/-- Settles O43: one register write after the draw, and a bit of the value is a bit of nn. -/
theorem randomByteIsMasked : Obligations.RandomByteIsMasked := by
  intro s x nn
  have hx : (s.drawn.loadMasked x nn s.rand8).V x = Config.rand s.draws &&& nn := State.V_setV_same x _
  refine ⟨_, rfl, hx, fun hnn => ?_, fun j hj => ?_, rfl, frame_setReg s.drawn x _⟩
  · subst hnn
    exact hx.trans BitVec.and_zero
  · rw [State.V_advance, hx, BitVec.getLsbD_and, hj, Bool.and_false]

/-! ### The flag, then the result -/

/-- VF gets `f`, and then V[x] gets `g` of V[x] and V[y] as they read after that (00_scope.md R14, decision D3). -/
def flagFirst (s : State) (x y : Reg) (f : Byte) (g : Byte → Byte → Byte) : State :=
  ((s.setV VF f).setV x (g ((s.setV VF f).V x) ((s.setV VF f).V y))).advance

theorem exec_op8XY4 (s : State) (x y : Reg) :
    exec (.op8XY4 x y) s = .next (flagFirst s x y (carryFlag (s.V x) (s.V y)) fun a b => a + b) := rfl

theorem exec_op8XY5 (s : State) (x y : Reg) :
    exec (.op8XY5 x y) s = .next (flagFirst s x y (noBorrowFlag (s.V x) (s.V y)) fun a b => a - b) := rfl

theorem exec_op8XY6 (s : State) (x y : Reg) :
    exec (.op8XY6 x y) s = .next (flagFirst s x y (shiftedOutRight (s.V x)) fun a _ => a >>> 1) := rfl

theorem exec_op8XY7 (s : State) (x y : Reg) :
    exec (.op8XY7 x y) s = .next (flagFirst s x y (noBorrowFlag (s.V y) (s.V x)) fun a b => b - a) := rfl

theorem exec_op8XYE (s : State) (x y : Reg) :
    exec (.op8XYE x y) s = .next (flagFirst s x y (shiftedOutLeft (s.V x)) fun a _ => a <<< 1) := rfl

theorem V_flagFirst_dest :
    (flagFirst s x y f g).V x = g (if x = VF then f else s.V x) (if y = VF then f else s.V y) := by
  rw [flagFirst, State.V_advance, State.V_setV_same, State.V_setV, State.V_setV]

theorem VF_flagFirst (hx : x ≠ VF) : (flagFirst s x y f g).V VF = f :=
  (State.V_setV_other hx.symm _).trans (State.V_setV_same VF f)

theorem frame_flagFirst (s : State) (x y : Reg) (f : Byte) (g : Byte → Byte → Byte) :
    let t := flagFirst s x y f g
    (∀ r, r ≠ x → r ≠ VF → t.V r = s.V r) ∧ t.pc = s.pc + 2 ∧ OnlyRegsAndPC s t :=
  ⟨fun _ hr hf => (State.V_setV_other hr _).trans (State.V_setV_other hf _), rfl, onlyRegsAndPC_setRegs s _⟩

/-! ### The three columns of R143 -/

theorem flagFirst_VF_left (hy : y ≠ VF) : (flagFirst s VF y f g).V VF = g f (s.V y) := by
  rw [V_flagFirst_dest, if_pos rfl, if_neg hy]

theorem flagFirst_VF_right (hx : x ≠ VF) :
    (flagFirst s x VF f g).V VF = f ∧ (flagFirst s x VF f g).V x = g (s.V x) f := by
  refine ⟨VF_flagFirst hx, ?_⟩
  rw [V_flagFirst_dest, if_neg hx, if_pos rfl]

theorem flagFirst_VF_both : (flagFirst s VF VF f g).V VF = g f f := by
  rw [V_flagFirst_dest, if_pos rfl]

/-! ### The flags and the differences as numbers -/

theorem carryFlag_eq_ite (a b : Byte) : carryFlag a b = if a.toNat + b.toNat > 255 then 1 else 0 := by
  simp only [carryFlag, flagOf, decide_eq_true_eq]

/-- The carry of a doubled byte is its bit 7 (42_registers_alu.md R136). -/
theorem carryFlag_self (a : Byte) : carryFlag a a = flagOf (decide (a.toNat > 127)) := by
  have h : a.toNat + a.toNat > 255 ↔ a.toNat > 127 := by omega
  rw [carryFlag, decide_eq_decide.mpr h]

theorem noBorrowFlag_eq_flagOf (a b : Byte) : noBorrowFlag a b = flagOf (decide (b.toNat ≤ a.toNat)) := by
  rw [noBorrowFlag, ← decide_not, decide_eq_decide.mpr Nat.not_lt]

theorem noBorrowFlag_eq_ite (a b : Byte) : noBorrowFlag a b = if b.toNat > a.toNat then 0 else 1 := by
  by_cases h : b.toNat > a.toNat <;> simp [noBorrowFlag, h]

theorem toNat_sub_byte (a b : Byte) : (a - b).toNat = (256 + a.toNat - b.toNat) % 256 := by
  have hb := b.isLt
  rw [BitVec.toNat_sub, Nat.sub_add_comm hb.le]

theorem toNat_flagOf : (flagOf c).toNat = c.toNat := by cases c <;> rfl

/-- Bit 0 of a byte is its parity (42_registers_alu.md R138). -/
theorem toNat_shiftedOutRight (a : Byte) : (shiftedOutRight a).toNat = a.toNat % 2 := by
  rw [shiftedOutRight, toNat_flagOf, BitVec.getLsbD, Nat.testBit_zero]
  rcases Nat.mod_two_eq_zero_or_one a.toNat with h | h <;> rw [h] <;> rfl

/-- Bit 7 of a byte is set from 128 on (42_registers_alu.md R140). -/
theorem shiftedOutLeft_eq_ite (a : Byte) : shiftedOutLeft a = if a.toNat ≥ 128 then 1 else 0 := by
  have h : a.getLsbD 7 = decide (a.toNat ≥ 128) := (BitVec.msb_eq_getLsbD_last a).symm.trans (BitVec.msb_eq_decide a)
  simp only [shiftedOutLeft, h, flagOf, decide_eq_true_eq]

theorem toNat_shiftedOutLeft (a : Byte) : (shiftedOutLeft a).toNat = a.toNat / 128 := by
  have ha := a.isLt
  rw [shiftedOutLeft_eq_ite]
  split
  · change 1 = _; omega
  · change 0 = _; omega

theorem flagOf_ushiftRight_one : flagOf c >>> 1 = 0 := by cases c <;> rfl

theorem toNat_ushiftRight_one (a : Byte) : (a >>> 1).toNat = a.toNat / 2 := by
  rw [BitVec.toNat_ushiftRight, Nat.shiftRight_one]

theorem toNat_shiftLeft_one (a : Byte) : (a <<< 1).toNat = a.toNat * 2 % 256 := by
  rw [BitVec.toNat_shiftLeft, Nat.shiftLeft_eq]

/-! ### The claims about the flag-writing instructions -/

/-- Settles O39: the carry first, then the sum of the two operands as they read after it. -/
theorem addWritesCarryFirst : Obligations.AddWritesCarryFirst := by
  rintro s x y f _ _ hf rfl rfl
  obtain rfl := hf.trans (carryFlag_eq_ite _ _).symm
  refine ⟨_, exec_op8XY4 s x y, ?_, VF_flagFirst, frame_flagFirst s x y _ _⟩
  rw [V_flagFirst_dest, BitVec.toNat_add]

/-- Settles O40: as for the sum; the two instructions differ in which operand is taken from which. -/
theorem subtractsWriteNoBorrowFirst : Obligations.SubtractsWriteNoBorrowFirst := by
  refine fun s x y f a b => ⟨?_, ?_⟩
  · rintro hf rfl rfl
    obtain rfl := hf.trans (noBorrowFlag_eq_ite _ _).symm
    refine ⟨_, exec_op8XY5 s x y, ?_, VF_flagFirst, frame_flagFirst s x y _ _⟩
    rw [V_flagFirst_dest, toNat_sub_byte]
  · rintro hf rfl rfl
    obtain rfl := hf.trans (noBorrowFlag_eq_ite _ _).symm
    refine ⟨_, exec_op8XY7 s x y, ?_, VF_flagFirst, frame_flagFirst s x y _ _⟩
    rw [V_flagFirst_dest, toNat_sub_byte]

/-- Settles O41: with x = 15 the shift reads a flag byte, so it answers 0 to the right, and 2 or 0 to the left. -/
theorem shiftsWriteTheLostBitFirst : Obligations.ShiftsWriteTheLostBitFirst := by
  intro s x y
  refine ⟨⟨_, exec_op8XY6 s x y, fun hx => ⟨?_, ?_⟩, ?_, frame_flagFirst s x y _ _⟩,
    ⟨_, exec_op8XYE s x y, fun hx => ⟨?_, ?_⟩, ?_, frame_flagFirst s x y _ _⟩⟩
  · rw [V_flagFirst_dest, if_neg hx, toNat_ushiftRight_one]
  · rw [VF_flagFirst hx, toNat_shiftedOutRight]
  · rintro rfl
    rw [V_flagFirst_dest, if_pos rfl, shiftedOutRight, flagOf_ushiftRight_one]
  · rw [V_flagFirst_dest, if_neg hx, toNat_shiftLeft_one]
  · rw [VF_flagFirst hx, toNat_shiftedOutLeft]
  · rintro rfl
    rw [V_flagFirst_dest, if_pos rfl, shiftedOutLeft_eq_ite]
    split <;> rfl

/-- Settles O42: for each instruction the three columns of the table, with its flag and its result. -/
theorem flagAliasingTable : Obligations.FlagAliasingTable := by
  intro s t x y hx hy v a b
  simp only [exec_op8XY4, exec_op8XY5, exec_op8XY7, noBorrowFlag_eq_flagOf, Host.Outcome.next.injEq]
  refine ⟨?_, ?_, ?_, ?_, ?_, ?_, ?_, ?_, ?_⟩ <;> rintro rfl
  · exact flagFirst_VF_left hy
  · exact flagFirst_VF_right hx
  · rw [flagFirst_VF_both, carryFlag_self]
    exact BitVec.two_mul.symm
  · exact flagFirst_VF_left hy
  · exact flagFirst_VF_right hx
  · exact flagFirst_VF_both.trans (BitVec.sub_self _)
  · exact flagFirst_VF_left hy
  · exact flagFirst_VF_right hx
  · exact flagFirst_VF_both.trans (BitVec.sub_self _)

end Sys2Proof.Proofs
end

/-! ## Index and memory

The words of ANNN and of the transfers by mask and fields, what an index write leaves, and for each transfer the two
ways it ends: in range with its bytes moved, or past the top of memory with the report alone. -/

section

namespace Sys2Proof.Proofs

open Sys2Proof Sys2Proof.Machine Sys2Proof.Safety

variable {s : State} {x : Reg}

/-! ### A word of a layout -/

/-- A word of format NNN is known by its family nibble and its address (30_encoding.md R73). -/
theorem formatNNN_eq_iff {op : Word} {h : BitVec 4} {nnn : Addr12} :
    formatNNN h nnn = op ↔ op &&& 0xF000#16 = h ++ 0x000#12 ∧ fieldNNN op = nnn := by
  constructor
  · rintro rfl
    exact ⟨Laws.EncodeRow.formatNNN_masked h nnn, fieldNNN_formatNNN h nnn⟩
  · rintro ⟨hm, rfl⟩
    have hh : fieldH op = h := by
      rw [← fieldH_masked op 0xA#4]
      exact (congrArg fieldH hm).trans (fieldH_formatNNN h 0)
    exact formatNNN_eq hh

/-- A word of format X is known by its family nibble, its low byte and its register (30_encoding.md R73). -/
theorem formatX_eq_iff {op : Word} {h : BitVec 4} {low : Byte} :
    formatXNN h x low = op ↔ op &&& 0xF0FF#16 = (h ++ 0x0#4) ++ low ∧ fieldX op = x := by
  constructor
  · rintro rfl
    exact ⟨Laws.EncodeRow.formatX_masked h x low, fieldX_formatXNN h x low⟩
  · rintro ⟨hm, rfl⟩
    have hh : fieldH op = h := by
      rw [← fieldH_masked op 0xF#4]
      exact (congrArg fieldH hm).trans (fieldH_formatXNN h 0 low)
    have hlow : fieldNN op = low := by
      rw [← fieldNN_masked]
      exact (congrArg fieldNN hm).trans (fieldNN_formatXNN h 0 low)
    exact formatXNN_eq hh hlow

/-! ### The index -/

/-- What an index write and a store leave alone besides the registers (43_index_memory.md R150, R156). -/
theorem frame_setMemIndex (s : State) (m : Memory) (a : Word) :
    let t := { s with mem := m, i := a }.advance
    SameStack s t ∧ SameTimers s t ∧ SameDisplay s t ∧ SameKeys s t ∧ SameEnvironment s t ∧ t.draws = s.draws :=
  ⟨⟨rfl, rfl⟩, ⟨rfl, rfl⟩, ⟨fun _ _ => rfl, rfl⟩, fun _ => rfl, ⟨rfl, rfl, rfl, rfl, rfl⟩, rfl⟩

/-- Settles O44: the encoding by its layout; the address has twelve bits. -/
theorem loadIndexImmediate : Obligations.LoadIndexImmediate := by
  refine ⟨fun _ _ => (decode_eq_some_iff rfl).trans formatNNN_eq_iff, fun s nnn => ?_⟩
  have hi : (zextAddr nnn).toNat = nnn.toNat := toNat_zextAddr nnn
  exact ⟨_, rfl, hi, hi.trans_le (Nat.le_of_lt_succ nnn.isLt), rfl, fun _ => rfl, fun _ => rfl,
    frame_setMemIndex s s.mem _⟩

theorem pastMemoryFlag_eq_ite (a : Word) (b : Byte) :
    pastMemoryFlag a b = if a.toNat + b.toNat > 4095 then 1 else 0 := by
  simp only [pastMemoryFlag, flagOf, decide_eq_true_eq]

/-- FX1E (43_index_memory.md R151): the V[x] added is read after VF was written (decision D3). -/
theorem exec_opFX1E (s : State) (x : Reg) :
    let f := pastMemoryFlag s.i (s.V x)
    exec (.opFX1E x) s =
      .next { s.setV VF f with i := s.i + zextByte (if x = VF then f else s.V x) }.advance := by
  intro f
  rw [← State.V_setV]
  rfl

/-- The base of a glyph does not wrap: it is at most 255 * 5 (43_index_memory.md R152). -/
theorem toNat_glyphBase (b : Byte) : (zextByte b * 5).toNat = b.toNat * 5 := by
  have hb := b.isLt
  rw [BitVec.toNat_mul, toNat_zextByte]
  exact Nat.mod_eq_of_lt (show b.toNat * 5 < 65536 by omega)

/-- Settles O45: the flag first, then the sum with V[x] as it reads after that; the glyph base as a number. -/
theorem indexArithmetic : Obligations.IndexArithmetic := by
  refine fun s x f a => ⟨?_, ?_⟩
  · rintro hf rfl
    obtain rfl := hf.trans (pastMemoryFlag_eq_ite _ _).symm
    refine ⟨_, exec_opFX1E s x, State.V_setV_same VF _, ?_, fun r hr => State.V_setV_other hr _, rfl,
      onlyRegsAndPC_setRegs { s with i := _ } _⟩
    rw [State.advance_i, BitVec.toNat_add, toNat_zextByte]
  · exact ⟨_, rfl, toNat_glyphBase _, fun _ => rfl, rfl, onlyRegsAndPC_setRegs { s with i := _ } s.v⟩

/-! ### Stores -/

/-- The k-th byte of a store from I reads back at I + k. -/
theorem read_storeBytes_dataAddr {bytes : List Byte} {k : Nat} (hk : k < bytes.length) :
    (s.mem.storeBytes (s.dataAddr 0) bytes).read (s.dataAddr k) = bytes[k] :=
  Memory.read_storeBytes_inside hk

/-- FX33 past the top of memory (43_index_memory.md R153, 20_memory.md R55). -/
theorem exec_opFX33_outOfRange (h : s.i.toNat + 2 > 4095) :
    exec (.opFX33 x) s = .next (s.reporting (.memoryRange s.pc (encode (.opFX33 x)) (s.i.toNat + 2))) :=
  if_neg ((not_dataInRange_iff 2).mpr h)

/-- FX55 past the top of memory (43_index_memory.md R154, 20_memory.md R55). -/
theorem exec_opFX55_outOfRange (h : s.i.toNat + x.val > 4095) :
    exec (.opFX55 x) s = .next (s.reporting (.memoryRange s.pc (encode (.opFX55 x)) (s.i.toNat + x.val))) :=
  if_neg ((not_dataInRange_iff x.val).mpr h)

/-- Each decimal digit of a byte fits a byte (43_index_memory.md R153). -/
theorem map_toNat_decimalDigits (b : Byte) :
    (decimalDigits b).map BitVec.toNat = [b.toNat / 100, b.toNat / 10 % 10, b.toNat % 10] := by
  have hb := b.isLt
  simp only [decimalDigits, List.map_cons, List.map_nil, BitVec.toNat_ofNat, List.cons.injEq, and_true]
  omega

/-- The k-th byte FX33 stores, as a number. -/
theorem toNat_read_storedDigits (s : State) (b : Byte) (k : Fin 3) :
    ((s.mem.storeBytes (s.dataAddr 0) (decimalDigits b)).read (s.dataAddr k)).toNat =
      [b.toNat / 100, b.toNat / 10 % 10, b.toNat % 10][k] := by
  have hk : k.val < (decimalDigits b).length := k.isLt
  rw [read_storeBytes_dataAddr hk, ← List.getElem_map BitVec.toNat (h := by simpa using hk)]
  simp only [map_toNat_decimalDigits, Fin.getElem_fin]

/-- Settles O46: the encoding by its layout; in range the three digits stored, past the top the report. -/
theorem storeDecimalDigits : Obligations.StoreDecimalDigits := by
  refine ⟨fun _ _ => (decode_eq_some_iff rfl).trans formatX_eq_iff, fun s x =>
    ⟨fun hr => ?_, fun hr => ⟨exec_opFX33_outOfRange hr, rfl⟩⟩⟩
  have hdigit := toNat_read_storedDigits s (s.V x)
  exact ⟨_, exec_opFX33_inRange hr, hdigit 0, hdigit 1, hdigit 2,
    fun _ => Memory.read_storeBytes_outside (bs := decimalDigits (s.V x)), fun _ => rfl, rfl, rfl,
    frame_setMemIndex s _ s.i⟩

/-- FX55 stores V[r] at I + r. -/
theorem read_storedRegs (s : State) {r : Reg} (hr : r ≤ x) :
    (s.mem.storeBytes (s.dataAddr 0) (s.firstRegs x)).read (s.dataAddr r.val) = s.V r := by
  have hlen : r.val < (s.firstRegs x).length := (Nat.lt_succ_of_le hr).trans_eq (State.length_firstRegs x).symm
  rw [read_storeBytes_dataAddr hlen, State.getElem_firstRegs]

/-- Settles O47: in range the registers stored, past the top the report. -/
theorem storeRegisters : Obligations.StoreRegisters := by
  refine fun s x => ⟨fun hr => ⟨_, exec_opFX55_inRange hr, fun r => read_storedRegs s, fun b hb => ?_, fun _ => rfl,
    rfl, rfl, frame_setMemIndex s _ s.i⟩, exec_opFX55_outOfRange⟩
  exact Memory.read_storeBytes_outside (by rwa [State.length_firstRegs])

/-! ### Loads -/

/-- FX65 in range (43_index_memory.md R155). -/
theorem exec_opFX65_inRange (h : s.i.toNat + x.val ≤ 4095) :
    exec (.opFX65 x) s = .next (s.setFirstRegs (s.mem.loadBytes (s.dataAddr 0) (x.val + 1))).advance :=
  if_pos (Nat.succ_le_succ h)

/-- FX65 past the top of memory (43_index_memory.md R155, 20_memory.md R55). -/
theorem exec_opFX65_outOfRange (h : s.i.toNat + x.val > 4095) :
    exec (.opFX65 x) s = .next (s.reporting (.memoryRange s.pc (encode (.opFX65 x)) (s.i.toNat + x.val))) :=
  if_neg ((not_dataInRange_iff x.val).mpr h)

/-- FX65 loads V[r] from I + r, and leaves the registers above x alone. -/
theorem V_loadedRegs (s : State) (x r : Reg) :
    (s.setFirstRegs (s.mem.loadBytes (s.dataAddr 0) (x.val + 1))).V r =
      if r ≤ x then s.mem.read (s.dataAddr r.val) else s.V r := by
  have hiff : r.val < (s.mem.loadBytes (s.dataAddr 0) (x.val + 1)).length ↔ r ≤ x := by
    rw [Memory.length_loadBytes, Nat.lt_succ_iff, Fin.le_def]
  rw [State.V_setFirstRegs]
  by_cases hr : r ≤ x
  · rw [dif_pos (hiff.mpr hr), if_pos hr, Memory.getElem_loadBytes]
    rfl
  · rw [dif_neg (mt hiff.mp hr), if_neg hr]

/-- Settles O48: the encoding by its layout; in range the registers loaded, past the top the report. -/
theorem loadRegisters : Obligations.LoadRegisters :=
  ⟨fun _ _ => (decode_eq_some_iff rfl).trans formatX_eq_iff, fun s x =>
    ⟨fun hr => ⟨_, exec_opFX65_inRange hr, V_loadedRegs s x, rfl, onlyRegsAndPC_setRegs s _⟩,
      fun hr => ⟨exec_opFX65_outOfRange hr, rfl⟩⟩⟩

/-- Settles O49: the load reads at I + r, where the store put V[r]. -/
theorem storeLoadRoundTrip : Obligations.StoreLoadRoundTrip := by
  intro s t u x hrange ht hi hmem
  cases (exec_opFX55_inRange hrange).symm.trans ht
  have hrange' : u.i.toNat + x.val ≤ 4095 := by rwa [hi]
  refine ⟨_, exec_opFX65_inRange hrange', fun r hr => ?_⟩
  have haddr : u.dataAddr r.val = s.dataAddr r.val := congrArg (·.toNat + r.val) hi
  rw [State.V_advance, V_loadedRegs, if_pos hr, haddr,
    hmem (s.dataAddr r.val) (Nat.le_add_right _ _) (Nat.add_le_add_left hr _)]
  exact read_storedRegs s hr

end Sys2Proof.Proofs
end

/-! ## Input and timers

The two ways a key skip ends, by whether V[x] names a key; the two ways a wait ends, by whether a key is down; and the
transfers between a register and a timer. -/

section

namespace Sys2Proof.Proofs

open Sys2Proof Sys2Proof.Machine Sys2Proof.Safety

variable {s : State} {x : Reg} {k : Key}

/-! ### The key skips -/

/-- EX9E at a key index (44_input_timers.md R170). -/
theorem exec_opEX9E_of_key (h : (s.V x).toNat = k.val) : exec (.opEX9E x) s = .next (s.skipIf (s.keyDown k)) := by
  simp only [exec, execEX9E, keyOf_eq_some.mpr h]

/-- EX9E above 15, where the latch has no entry (44_input_timers.md R170, decision D10). -/
theorem exec_opEX9E_of_no_key (h : 15 < (s.V x).toNat) :
    exec (.opEX9E x) s = .next (s.reporting (.keyRange s.pc (encode (.opEX9E x)) (s.V x))) := by
  simp only [exec, execEX9E, keyOf_eq_none.mpr h, raise_eq]

/-- EXA1 at a key index (44_input_timers.md R171). -/
theorem exec_opEXA1_of_key (h : (s.V x).toNat = k.val) : exec (.opEXA1 x) s = .next (s.skipIf (!s.keyDown k)) := by
  simp only [exec, execEXA1, keyOf_eq_some.mpr h]

/-- EXA1 above 15, where the latch has no entry (44_input_timers.md R171, decision D10). -/
theorem exec_opEXA1_of_no_key (h : 15 < (s.V x).toNat) :
    exec (.opEXA1 x) s = .next (s.reporting (.keyRange s.pc (encode (.opEXA1 x)) (s.V x))) := by
  simp only [exec, execEXA1, keyOf_eq_none.mpr h, raise_eq]

/-- A skip on a key that is up goes 2 ahead where the key is down (44_input_timers.md R171). -/
theorem pc_skipIf_not (c : Bool) : (s.skipIf (!c)).pc = if c = true then s.pc + 2 else s.pc + 4 := by
  cases c <;> rfl

/-- Settles O52: the two ways each skip ends. -/
theorem keySkips : Obligations.KeySkips := by
  refine fun s x => ⟨fun k hk => ⟨?down, ?up⟩, fun hx => ⟨exec_opEX9E_of_no_key hx, exec_opEXA1_of_no_key hx⟩⟩
  case down => exact ⟨_, exec_opEX9E_of_key hk, rfl, onlyPC_skipIf s _⟩
  case up => exact ⟨_, exec_opEXA1_of_key hk, pc_skipIf_not _, onlyPC_skipIf s _⟩

/-! ### The wait for a key -/

/-- FX0A with a key down (44_input_timers.md R173). -/
theorem exec_opFX0A_of_leastKeyDown (h : s.leastKeyDown = some k) :
    exec (.opFX0A x) s = .next (s.setV x (BitVec.ofNat 8 k.val)).advance := by
  simp only [exec, execFX0A, h]

/-- FX0A with no key down (44_input_timers.md R173, 60_exceptions.md R204). -/
theorem exec_opFX0A_of_no_key_down (h : s.leastKeyDown = none) :
    exec (.opFX0A x) s = .next (s.returning .waiting) := by
  simp only [exec, execFX0A, h]

/-- A key index fits a byte (10_state.md R33). -/
theorem toNat_ofNat_key (k : Key) : (BitVec.ofNat 8 k.val).toNat = k.val := by
  rw [BitVec.toNat_ofNat, Nat.mod_eq_of_lt (by omega)]

/-- Settles O53: the least key down is the one found, and none is found exactly when none is down. -/
theorem waitForKey : Obligations.WaitForKey := by
  refine fun s x => ⟨fun k hk hleast => ?found, fun hnone => ?waiting⟩
  case found =>
    have hfound : s.leastKeyDown = some k := State.leastKeyDown_eq_some.mpr ⟨hk, hleast⟩
    refine ⟨_, exec_opFX0A_of_leastKeyDown hfound, ?_, frame_setReg s x _⟩
    rw [State.V_advance, State.V_setV_same, toNat_ofNat_key]
  case waiting => exact exec_opFX0A_of_no_key_down (State.leastKeyDown_eq_none.mpr hnone)

/-! ### The timers -/

theorem onlyPC_advance (s : State) : OnlyPC s s.advance := onlyPC_jumpTo s _

/-- Settles O54: FX07 is one register write; after the timer write of FX15 and FX18 only PC changes. -/
theorem timerTransfers : Obligations.TimerTransfers := by
  intro s x
  obtain ⟨hdelayRegs, hdelayFrame⟩ := onlyPC_advance { s with dt := s.V x }
  obtain ⟨hsoundRegs, hsoundFrame⟩ := onlyPC_advance { s with st := s.V x }
  exact ⟨⟨_, rfl, State.V_setV_same x _, frame_setReg s x _⟩, ⟨_, rfl, rfl, hdelayRegs, rfl, hdelayFrame⟩,
    ⟨_, rfl, rfl, hsoundRegs, rfl, hsoundFrame⟩⟩

end Sys2Proof.Proofs
end

/-! ## Faults, the log and the tick

What an instruction reports, by the table of 60_exceptions.md R201; the faults that leave a step void, told by the state
it begins in; and what each operation of the host answers and owes. -/

section

namespace Sys2Proof.Proofs

open Sys2Proof Sys2Proof.Machine Sys2Proof.Safety

variable {s t u : State} {i : Instr} {f : Fault} {op : HostOp}

/-! ### What an instruction reports -/

/-- An instruction reports its tabled fault in a void step, or leaves the log alone; only FX0A changes the result
without a report (60_exceptions.md R201, R204, R205). -/
theorem Effect.report_cases (h : Effect s i t) :
    (∃ f, faultOf i s = some f ∧ t = s.reporting f) ∨
      t.faults = s.faults ∧ (t.result = s.result ∨ t.result = .waiting ∧ ∃ x, i = .opFX0A x) := by
  cases h with
  | fault hf => exact .inl ⟨_, hf, rfl⟩
  | wait x => exact .inr ⟨rfl, .inr ⟨rfl, x, rfl⟩⟩
  | _ => exact .inr ⟨rfl, .inl rfl⟩

/-- A row of the table, read as a condition and its record. -/
theorem raised_of_row {c : Prop} [Decidable c] {g : Fault} (h : (if c then some g else none) = some f)
    (hx : c → exec i s = .next (s.reporting g)) : exec i s = .next (s.reporting f) := by
  obtain ⟨hc, hgf⟩ := Option.ite_none_right_eq_some.mp h
  exact Option.some.inj hgf ▸ hx hc

/-- Where the table names a fault, the instruction raises it (60_exceptions.md R201). -/
theorem exec_of_faultOf (h : faultOf i s = some f) : exec i s = .next (s.reporting f) := by
  cases i with
  | op00EE => exact raised_of_row h fun hsp => exec_op00EE_of_pop_none (dif_pos hsp)
  | op2NNN => exact raised_of_row h fun hsp => exec_op2NNN_of_push_none (dif_neg (Nat.not_lt.mpr hsp.ge))
  | opDXYN => exact raised_of_row h exec_opDXYN_outOfRange
  | opEX9E => exact raised_of_row h exec_opEX9E_of_no_key
  | opEXA1 => exact raised_of_row h exec_opEXA1_of_no_key
  | opFX33 => exact raised_of_row h exec_opFX33_outOfRange
  | opFX55 => exact raised_of_row h exec_opFX55_outOfRange
  | opFX65 => exact raised_of_row h exec_opFX65_outOfRange
  | _ => cases h

/-- An instruction always answers a next state: it runs alike with itself (log entry 1). -/
theorem exec_answers (i : Instr) (s : State) : ∃ t, exec i s = .next t := by
  obtain ⟨t, -, ht, -⟩ := exec_alike i s s fun _ _ _ => rfl
  exact ⟨t, ht⟩

/-- Settles O10: where the table names a fault by `exec_of_faultOf`, elsewhere by the report of an `Effect`. -/
theorem faultsExactlyAsTabled : Obligations.FaultsExactlyAsTabled := by
  intro i s
  split
  next f hf => exact ⟨_, exec_of_faultOf hf, by simp [SameBlock], rfl, rfl, rfl, rfl, rfl, rfl⟩
  next hnone =>
    obtain ⟨t, ht⟩ := exec_answers i s
    exact ⟨t, ht, (effect_of_exec ht).report_cases.resolve_left fun ⟨f, hf, _⟩ => by simp [hnone] at hf⟩

/-! ### The fault log -/

/-- The log of `t` is that of `s`, or has the fault that `t` answers at its head. -/
def LogGrows (s t : State) : Prop := t.faults = s.faults ∨ ∃ f, t.result = .fault f ∧ t.faults = f :: s.faults

theorem logGrows_reporting (s : State) (f : Fault) : LogGrows s (s.reporting f) := .inr ⟨f, rfl, rfl⟩

theorem logGrows_of_exec (h : exec i s = .next t) : LogGrows s t := by
  rcases (effect_of_exec h).report_cases with ⟨f, -, rfl⟩ | ⟨hlog, -⟩
  · exact logGrows_reporting s f
  · exact .inl hlog

theorem logGrows_of_blockStep (h : blockStep s = .next t) : LogGrows s t := by
  rcases blockStep_effect h with ⟨-, rfl⟩ | ⟨-, rfl⟩ | ⟨i, -, -, hx⟩
  · exact logGrows_reporting s _
  · exact logGrows_reporting s.advance _
  · exact logGrows_of_exec (s := s.returning .ok) hx

/-- Of the host's operations, only `step()` and a rejected `loadProgram` write the log (60_exceptions.md R207). -/
theorem logGrows_of_performed (h : Performed s op t) : LogGrows s t := by
  cases h with
  | step _ hb => exact logGrows_of_blockStep (s := s.stepBegun) hb
  | rejected => exact logGrows_reporting s _
  | _ => exact .inl rfl

/-- Settles O15: taking an operation off the schedule leaves the log alone. -/
theorem faultLogOnlyGrows : Obligations.FaultLogOnlyGrows := fun s _ h =>
  logGrows_of_performed (s := { s with schedule := s.schedule.tail }) (performed_of_step h)

/-! ### The void step -/

/-- The step that begins at `s` is void and reports `f`: no fetch can be made at PC, or the fetched instruction's
condition of 60_exceptions.md R201 holds. -/
def VoidFault (s : State) (f : Fault) : Prop :=
  (s.pc.toNat > 4094 ∧ f = .fetchRange s.pc) ∨
    ∃ i, s.pc.toNat ≤ 4094 ∧ decode s.fetch = some i ∧ faultOf i s = some f

theorem blockStep_of_voidFault (h : VoidFault s f) : blockStep s = .next (s.reporting f) := by
  rcases h with ⟨hpc, rfl⟩ | ⟨i, hpc, hd, hf⟩
  · exact if_pos hpc
  · rw [blockStep, if_neg (Nat.not_lt.mpr hpc), hd]
    exact exec_of_faultOf (s := s.returning .ok) hf

/-- A step that answers a fault other than DecodeFault was void: an instruction starts from `ok`, so its fault is its
own report. -/
theorem voidFault_of_blockStep (h : blockStep s = .next t) (hr : t.result = .fault f) (hc : f.code ≠ 1) :
    VoidFault s f := by
  rcases blockStep_effect h with ⟨hpc, rfl⟩ | ⟨-, rfl⟩ | ⟨i, hpc, hd, hx⟩
  · cases hr
    exact .inl ⟨hpc, rfl⟩
  · cases hr
    exact absurd rfl hc
  · rcases (effect_of_exec hx).report_cases with ⟨g, hg, rfl⟩ | ⟨-, hok | ⟨hwait, -⟩⟩
    · cases hr
      exact .inr ⟨i, hpc, hd, hg⟩
    · cases hr.symm.trans hok
    · cases hr.symm.trans hwait

/-- Whether and how a step faults is told by memory, the registers, I, PC and SP. -/
theorem VoidFault.congr (h : VoidFault s f) (hmem : u.mem = s.mem) (hv : u.v = s.v) (hi : u.i = s.i)
    (hpc : u.pc = s.pc) (hsp : u.sp = s.sp) : VoidFault u f := by
  have hfetch : u.fetch = s.fetch := by simp only [State.fetch, hmem, hpc]
  have hfault : ∀ i, faultOf i u = faultOf i s := fun i => by
    cases i <;> simp only [faultOf, State.V_congr hv, hi, hpc, hsp]
  simpa only [VoidFault, hpc, hfetch, hfault] using h

/-- A `step()` performed is a step of the block with its tick owed. -/
theorem Performed.blockStep_of_step (h : Performed s .step t) :
    s.tickOwed = false ∧ blockStep s.stepBegun = .next t := by
  cases h with
  | step ho hb => exact ⟨ho, hb⟩
  | read _ ho => simp at ho

/-- Settles O12: the timers are not among what tells a void fault. -/
theorem voidFaultRepeats : Obligations.VoidFaultRepeats := by
  intro s t f hop h hr hc
  have hp := performed_of_step h
  rw [hop] at hp
  obtain ⟨-, hb⟩ := hp.blockStep_of_step
  have hvoid := voidFault_of_blockStep hb hr hc
  cases hb.symm.trans (blockStep_of_voidFault hvoid)
  refine ⟨by simp [SameBlock], fun u ⟨hmem, hv, hi, hpc, hsp, _⟩ ho => ?_⟩
  have hagain : VoidFault u.stepBegun f := hvoid.congr hmem hv hi hpc hsp
  exact ⟨_, (perform_step_of_not_owed ho).trans (blockStep_of_voidFault hagain), rfl, rfl, by simp [SameBlock]⟩

/-! ### The decode fault -/

/-- `step()` at a word that decodes to nothing (30_encoding.md R84). -/
theorem perform_step_of_decode_none (ho : s.tickOwed = false) (hpc : s.pc.toNat ≤ 4094) (hd : decode s.fetch = none) :
    perform .step s = .next (s.stepBegun.advance.reporting (.decodeFault s.pc s.fetch)) := by
  have hfetch : decode s.stepBegun.fetch = none := hd
  rw [perform_step_of_not_owed ho, blockStep, State.stepBegun_pc, if_neg (Nat.not_lt.mpr hpc), hfetch]
  rfl

/-- Settles O8: the step advances PC, reports and owes its tick, and the tick follows. -/
theorem decodeFaultAdvancesPC : Obligations.DecodeFaultAdvancesPC := by
  intro s hop ho hpc hd
  have hstep : step s = .next (State.reporting { s with schedule := s.schedule.tail }.stepBegun.advance
      (.decodeFault s.pc s.fetch)) := by
    rw [step, nextOp_state, hop]
    exact perform_step_of_decode_none ho hpc hd
  exact ⟨_, hstep, rfl, by simp [SameBlock], rfl, rfl, rfl, rfl, rfl, rfl, tickFollows_of_owed (congrArg owesTick)⟩

/-! ### Which operations go on -/

theorem blockStep_answers (s : State) : ∃ t, blockStep s = .next t := by
  rcases blockStep_cases (s := s) with ⟨-, e⟩ | ⟨-, -, e⟩ | ⟨i, -, -, e⟩
  · exact ⟨_, e⟩
  · exact ⟨_, e⟩
  · rw [e]
    exact exec_answers i _

/-- An operation goes on, or is a step or a tick out of turn (60_exceptions.md R223). -/
theorem perform_answers (op : HostOp) (s : State) :
    (∃ t, perform op s = .next t) ∨
    (op = .step ∧ s.tickOwed = true ∧ perform op s = .refused .missingTick) ∨
    (op = .tick ∧ s.tickOwed = false ∧ s.cadence = .perStep ∧ perform op s = .refused .extraTick) := by
  cases op with
  | step =>
    rcases perform_step_cases (s := s) with ⟨ho, e⟩ | ⟨-, e⟩
    · exact .inr (.inl ⟨rfl, ho, e⟩)
    · rw [e]
      exact .inl (blockStep_answers _)
  | tick =>
    rcases perform_tick_cases (s := s) with ⟨ho, hc, e⟩ | ⟨-, e⟩
    · exact .inr (.inr ⟨rfl, ho, hc, e⟩)
    · exact .inl ⟨_, e⟩
  | _ => exact .inl ⟨_, rfl⟩

/-- The reference cycle is never out of turn (70_reset_and_hazards.md R240). -/
theorem perform_idleOp_answers (s : State) : ∃ t, perform s.idleOp s = .next t := by
  rcases perform_answers s.idleOp s with hnext | ⟨hop, ho, -⟩ | ⟨hop, ho, -⟩
  · exact hnext
  · simp [State.idleOp, ho] at hop
  · simp [State.idleOp, ho] at hop

/-- Settles O11: the reference cycle goes on, and a scheduled operation by `perform_answers`. -/
theorem everyOperationAnswers : Obligations.EveryOperationAnswers := by
  intro s
  cases hs : s.schedule with
  | nil =>
    rw [step_of_idle hs]
    exact .inl (perform_idleOp_answers s)
  | cons op rest =>
    rw [step_of_scheduled hs]
    rcases perform_answers op { s with schedule := rest } with hnext | ⟨rfl, ho, e⟩ | ⟨rfl, ho, hc, e⟩
    · exact .inl hnext
    · exact .inr (.inl ⟨e, ho, rest, rfl⟩)
    · exact .inr (.inr ⟨e, ho, hc, rest, rfl⟩)

/-! ### Steps and ticks in turn -/

/-- A step leaves its tick owed exactly under PER_STEP (60_exceptions.md R213). -/
theorem Performed.tickOwed_of_step (h : Performed s .step t) :
    s.tickOwed = false ∧ t.tickOwed = owesTick s.cadence := by
  obtain ⟨ho, hb⟩ := h.blockStep_of_step
  obtain ⟨-, -, howed⟩ := blockStep_keeps_environment hb
  exact ⟨ho, howed⟩

theorem Performed.tickOwed_of_tick (h : Performed s .tick t) :
    (s.tickOwed = true ∨ s.cadence = .host) ∧ t.tickOwed = false := by
  cases h with
  | tick ho => exact ⟨ho, rfl⟩
  | read _ ho => simp at ho

/-- Every other operation may come between a step and its tick (20_memory.md R60). -/
theorem Performed.keeps_tickOwed (h : Performed s op t) (hstep : op ≠ .step) (htick : op ≠ .tick) :
    t.tickOwed = s.tickOwed := by
  cases h with
  | step => exact absurd rfl hstep
  | tick => exact absurd rfl htick
  | _ => rfl

/-- Settles O17: the owed tick after a step, a tick and any other operation. -/
theorem stepsAndTicksAlternate : Obligations.StepsAndTicksAlternate := by
  intro s t hc h
  have hp := performed_of_step h
  have hcad : t.cadence = .perStep := hp.keeps_schedule.2.trans hc
  refine ⟨fun hop => ?_, fun hop => ?_, hp.keeps_tickOwed⟩
  · rw [hop] at hp
    obtain ⟨ho, howed⟩ := hp.tickOwed_of_step
    have ht : t.tickOwed = true := howed.trans (congrArg owesTick hc)
    exact ⟨ho, tickFollows_of_owed fun _ => ht, if_pos ht⟩
  · rw [hop] at hp
    obtain ⟨ho, ht⟩ := hp.tickOwed_of_tick
    exact ⟨ho.resolve_right (fun hhost => by cases hc.symm.trans hhost), ht, if_pos ⟨ht, hcad⟩⟩

/-- Settles O25: the decrement by `countDown_toNat`, and the operation where it is not an extra tick. -/
theorem tickCountsDown : Obligations.TickCountsDown := by
  intro s
  have hcount : ∀ b : Byte, (countDown b).toNat = if b.toNat > 0 then b.toNat - 1 else 0 := fun b => by
    rw [countDown_toNat]
    split <;> omega
  refine ⟨hcount s.dt, hcount s.st, by simp [SameBlock], ⟨rfl, rfl, rfl, rfl, rfl⟩, rfl, fun _ => rfl,
    fun hturn => ?_⟩
  refine if_neg fun ⟨ho, hc⟩ => ?_
  rcases hturn with hhost | howed
  · cases hc.symm.trans hhost
  · cases ho.symm.trans howed

/-! ### The latch and the readouts -/

theorem sameBlock_returning (s : State) (r : OpResult) : SameBlock s (s.returning r) := by simp [SameBlock]

/-- Settles O26: one key by `State.keyDown_setKey`; DIRTY aside, the others only answer. -/
theorem hostReadsAndWrites : Obligations.HostReadsAndWrites := fun s k down _ _ =>
  ⟨⟨_, rfl, fun j => State.keyDown_setKey k j down, sameBlock_returning (s.setKey k down) _, rfl⟩,
    ⟨_, rfl, rfl, sameBlock_returning s.clearDirty _, rfl⟩, ⟨_, rfl, rfl, sameBlock_returning s _, rfl⟩,
    ⟨_, rfl, rfl, sameBlock_returning s _, rfl⟩, ⟨_, rfl, rfl, sameBlock_returning s _, rfl⟩,
    ⟨_, rfl, rfl, sameBlock_returning s _, rfl⟩⟩

end Sys2Proof.Proofs
end

/-! ## Reset, loading and the end of a run

What `create()`, `init()` and `loadProgram` leave, the first step of a booted machine, one round of the reference cycle,
and where a run ends: at a jump to its own address, or at the steps that report a void fault. -/

section

namespace Sys2Proof.Proofs

open Sys2Proof Sys2Proof.Machine Sys2Proof.Safety

variable {s t u : State} {i : Instr} {f : Fault} {op : HostOp} {image : List Byte}

/-! ### The machine created and initialised -/

/-- Settles O21: the font is a store into a memory that lists nothing, and the rest is as at reset. -/
theorem createHoldsTheFont : Obligations.CreateHoldsTheFont := by
  intro font
  have hlen : font.toList.length = 80 := font.length_toList
  obtain ⟨hmem, hpc, hstack, howed⟩ := invAtReset
  refine ⟨fun a => ?inFont, fun a ha => ?pastFont, rfl, ?canonical, hpc, hstack, howed⟩
  case inFont =>
    have hread := Memory.read_storeBytes_inside (m := []) (a := 0) (a.isLt.trans_eq hlen.symm)
    rwa [Nat.zero_add, Vector.getElem_toList] at hread
  case pastFont =>
    exact (Memory.read_storeBytes_outside (.inr (by omega))).trans (Memory.atCreate_past_font ha)
  case canonical => exact Memory.wf_storeBytes hmem (by simp only [InRange]; omega)

/-- Settles O22: `init()` writes each element of R37 but memory with its constant, and no field of the model's own but
the result. -/
theorem initKeepsMemory : Obligations.InitKeepsMemory :=
  fun _ => ⟨_, rfl, fun _ => rfl, ⟨rfl, rfl, rfl, rfl, rfl, rfl, rfl, rfl, rfl, rfl, rfl⟩, rfl⟩

/-! ### Loading and the first step -/

/-- `loadProgram` of an image that does not fit (70_reset_and_hazards.md R233). -/
theorem perform_loadProgram_too_large (h : image.length > 3584) :
    perform (.loadProgram image) s = .next (s.reporting (.loadTooLarge image.length)) :=
  congrArg Host.Outcome.next (if_pos h)

/-- Settles O23: an image that fits is one store at 512, and a larger one is a report alone. -/
theorem loadProgramCopiesOrRejects : Obligations.LoadProgramCopiesOrRejects := by
  refine fun s image => ⟨fun hfits => ?fits, fun hlarge => ?tooLarge⟩
  case fits =>
    exact ⟨_, perform_loadProgram_fits hfits, fun _ => Memory.read_storeBytes_inside,
      fun _ => Memory.read_storeBytes_outside, by simp [SameBlock], rfl, rfl⟩
  case tooLarge => exact ⟨_, perform_loadProgram_too_large hlarge, by simp [SameBlock], rfl, rfl⟩

/-- The booted machine is the reset one with the image stored (70_reset_and_hazards.md R234). -/
theorem boot_of_fits (h : image.length ≤ 3584) :
    State.boot image = { State.reset with mem := Memory.storeBytes [] 512 image }.returning .loaded :=
  Host.Outcome.next.inj (perform_loadProgram_fits (s := State.reset) h)

/-- Settles O24: the image's first two bytes are what the first step fetches. -/
theorem bootRunsTheFirstWord : Obligations.BootRunsTheFirstWord := by
  rintro image hi lo rest i rfl hfits hd
  have hhi : (Memory.storeBytes [] 512 (hi :: lo :: rest)).read 512 = hi :=
    Memory.read_storeBytes_inside (k := 0) (by simp)
  have hlo : (Memory.storeBytes [] 512 (hi :: lo :: rest)).read 513 = lo :=
    Memory.read_storeBytes_inside (k := 1) (by simp)
  rw [boot_of_fits hfits]
  refine ⟨(stepRunsTheDecodedInstruction _ i rfl ?pc ?fetch).1 rfl, rfl, rfl⟩
  case pc => exact (show 512 ≤ 4094 by decide)
  case fetch => exact (congrArg₂ (fun a b => decode (a ++ b)) hhi hlo).trans hd

/-! ### The reference cycle -/

/-- With nothing scheduled and no tick owed the host calls `step()` (70_reset_and_hazards.md R240). -/
theorem nextOp_of_idle (hs : s.schedule = []) (ho : s.tickOwed = false) : s.nextOp.1 = .step := by
  simp [State.nextOp, hs, State.idleOp, ho]

/-- Where the next operation is `step()`, the machine's step runs the instruction at PC. -/
theorem step_of_decode (hop : s.nextOp.1 = .step) (ho : s.tickOwed = false) (hpc : s.pc.toNat ≤ 4094)
    (hd : decode s.fetch = some i) :
    step s = exec i (State.returning { s with schedule := s.schedule.tail }.stepBegun .ok) := by
  rw [step, nextOp_state, hop]
  exact perform_step_of_decode (s := { s with schedule := s.schedule.tail }) ho hpc hd

/-- One round of the reference cycle: the step of the instruction at PC, then its tick (70_reset_and_hazards.md R240,
R241). -/
theorem cycle_of_decode (hs : s.schedule = []) (ho : s.tickOwed = false) (hc : s.cadence = .perStep)
    (hpc : s.pc.toNat ≤ 4094) (hd : decode s.fetch = some i)
    (hx : exec i (State.returning { s with schedule := s.schedule.tail }.stepBegun .ok) = .next t) :
    ∃ u, step s = .next t ∧ step t = .next u ∧ u.dt.toNat = t.dt.toNat - 1 ∧ u.st.toNat = t.st.toNat - 1 ∧
      u.pc = t.pc := by
  have hop := nextOp_of_idle hs ho
  have hstep : step s = .next t := (step_of_decode hop ho hpc hd).trans hx
  obtain ⟨hsch, hcad⟩ := (performed_of_step hstep).keeps_schedule
  obtain ⟨-, htick, -⟩ := (stepsAndTicksAlternate s t hc hstep).1 hop
  obtain ⟨-, u, -, hnext, hdt, hst, ⟨-, -, -, hupc, -⟩, -⟩ := htick (hcad.trans hc)
  exact ⟨u, hstep, hnext (hsch.trans (congrArg List.tail hs)), hdt, hst, hupc⟩

/-- Settles O27: the step writes the timer, and the tick after it counts from there. -/
theorem referenceCycleTicksTheNewValue : Obligations.ReferenceCycleTicksTheNewValue := by
  refine fun s x hs ho hc hpc => ⟨fun hd => ?delay, fun hd => ?sound⟩
  case delay =>
    obtain ⟨u, hstep, hu, hdt, hst, hupc⟩ := cycle_of_decode hs ho hc hpc hd rfl
    exact ⟨_, u, hstep, hu, rfl, rfl, hdt, hst, hupc⟩
  case sound =>
    obtain ⟨u, hstep, hu, hdt, hst, hupc⟩ := cycle_of_decode hs ho hc hpc hd rfl
    exact ⟨_, u, hstep, hu, rfl, rfl, hst, hdt, hupc⟩

/-! ### The jump to its own address -/

/-- Memory and PC tell whether the machine is at a jump to its own address. -/
theorem AtSelfJump.congr (h : AtSelfJump s) (hmem : t.mem = s.mem) (hpc : t.pc = s.pc) : AtSelfJump t := by
  have hfetch : t.fetch = s.fetch := by simp only [State.fetch, hmem, hpc]
  simpa only [AtSelfJump, hpc, hfetch] using h

/-- A tick that goes on has the one outcome of 60_exceptions.md R212. -/
theorem eq_of_perform_tick (h : perform .tick s = .next t) : t = s.tick.tickPaid.returning .nothing := by
  cases performed_of_perform h with
  | tick => rfl
  | read _ ho => simp at ho

/-- Settles O18: the jump writes PC with the value it has, and a tick writes neither memory nor PC. -/
theorem selfJumpRepeats : Obligations.SelfJumpRepeats := by
  intro s hop ho hjump
  have ⟨hpc, nnn, hd, htarget⟩ := hjump
  have hstep : step s = .next (State.returning { s with schedule := s.schedule.tail }.stepBegun .ok) := by
    rw [step_of_decode hop ho hpc hd]
    exact congrArg (fun a => Host.Outcome.next (State.jumpTo _ a)) htarget
  refine ⟨_, hstep, by simp [SameBlock], rfl, rfl, AtSelfJump.congr hjump rfl rfl, fun u hu => ?_⟩
  obtain rfl := eq_of_perform_tick hu
  exact ⟨by simp [SameBlock], AtSelfJump.congr hjump rfl rfl⟩

/-! ### The faults that end a run -/

/-- A row of the table whose record ends a run. -/
theorem endsRun_of_row {c : Prop} [Decidable c] {g : Fault} (h : (if c then some g else none) = some f)
    (hg : g.endsRun = true) : f.endsRun = true :=
  Option.some.inj (Option.ite_none_right_eq_some.mp h).2 ▸ hg

/-- Every fault an instruction raises ends a run (60_exceptions.md R201, 70_reset_and_hazards.md R246). -/
theorem endsRun_of_faultOf (h : faultOf i s = some f) : f.endsRun = true := by
  cases i with
  | op00EE | op2NNN | opDXYN | opEX9E | opEXA1 | opFX33 | opFX55 | opFX65 => exact endsRun_of_row h rfl
  | _ => cases h

theorem VoidFault.endsRun (h : VoidFault s f) : f.endsRun = true := by
  rcases h with ⟨-, rfl⟩ | ⟨i, -, -, hf⟩
  · rfl
  · exact endsRun_of_faultOf hf

theorem exists_voidFault_iff : (∃ f, VoidFault s f) ↔
    s.pc.toNat > 4094 ∨ ∃ i, s.pc.toNat ≤ 4094 ∧ decode s.fetch = some i ∧ (faultOf i s).isSome = true := by
  simp only [Option.isSome_iff_exists]
  constructor
  · rintro ⟨f, ⟨hpc, -⟩ | ⟨i, hpc, hd, hf⟩⟩
    · exact .inl hpc
    · exact .inr ⟨i, hpc, hd, f, hf⟩
  · rintro (hpc | ⟨i, hpc, hd, f, hf⟩)
    · exact ⟨_, .inl ⟨hpc, rfl⟩⟩
    · exact ⟨f, .inr ⟨i, hpc, hd, hf⟩⟩

/-- A `step()` stops the run exactly when it is void (70_reset_and_hazards.md R246). -/
theorem stoppedByFault_iff_of_blockStep (h : blockStep s = .next t) : StoppedByFault t ↔ ∃ f, VoidFault s f := by
  constructor
  · rintro ⟨f, hr, hends⟩
    exact ⟨f, voidFault_of_blockStep h hr (f.endsRun_iff.mp hends).1⟩
  · rintro ⟨f, hvoid⟩
    cases h.symm.trans (blockStep_of_voidFault hvoid)
    exact ⟨f, rfl, hvoid.endsRun⟩

/-- Of the other operations only a rejected `loadProgram` answers a fault, and that one ends no run (log entry 29). -/
theorem not_stoppedByFault_of_perform (h : perform op s = .next t) (hop : op ≠ .step) : ¬ StoppedByFault t := by
  rintro ⟨f, hr, hends⟩
  cases op with
  | step => exact hop rfl
  | tick =>
    cases eq_of_perform_tick h
    cases hr
  | loadProgram image =>
    rcases Nat.lt_or_ge 3584 image.length with hlarge | hfits
    · cases h.symm.trans (perform_loadProgram_too_large hlarge)
      cases hr
      cases hends
    · cases h.symm.trans (perform_loadProgram_fits hfits)
      cases hr
  | _ =>
    cases h
    cases hr

/-- Settles O19: a `step()` stops the run when it is void, and no other operation does. -/
theorem runsEndAtFaultsOfSteps : Obligations.RunsEndAtFaultsOfSteps := by
  intro s t h
  by_cases hop : s.nextOp.1 = .step
  · have hp := performed_of_step h
    rw [hop] at hp
    obtain ⟨-, hb⟩ := hp.blockStep_of_step
    exact (stoppedByFault_iff_of_blockStep hb).trans (exists_voidFault_iff.trans (and_iff_right hop).symm)
  · exact iff_of_false (not_stoppedByFault_of_perform h hop) fun ⟨hstep, _⟩ => hop hstep

end Sys2Proof.Proofs
end
